-- ==== Sys2Proof/Word.lean ====
section
/-!
DEFINITION. The value types of the block (00_scope.md R8, R10, R107): words, bytes, the block operand, the digest,
the opcode, and a port value that may be unknown (30_encoding.md R83).
-/
namespace Sys2Proof

/-- A word: 64 bits, unsigned, bit 63 the most significant (R10). -/
abbrev Word := BitVec 64

/-- A byte of a block or of a message. -/
abbrev Byte := BitVec 8

/-- The block operand `blk_data[1023:0]` (R70). -/
abbrev Block := BitVec 1024

/-- The digest port `digest[511:0]` (R70). -/
abbrev Digest := BitVec 512

/-- The opcode `cmd_op[1:0]` (R73). -/
abbrev Op := BitVec 2

/-- What an input port carries at an edge: a value, or something of which at least one bit is unknown (R83). -/
inductive Pin (α : Type) where
  | known (v : α)
  | unknown
  deriving DecidableEq, Repr

end Sys2Proof
end

