-- ==== Sys2Proof/Machine/Bits.lean ====
section
/-!
DEFINITION. The bit-level primitives of 40_bit_primitives.md that are not already operators of `BitVec`: rotation and
logical shift right. Bitwise logic (R103) is `&&&`, `|||`, `^^^`, `~~~`; addition modulo 2^64 (R104, R105) is `+`.
-/
namespace Sys2Proof.Machine

/-- `rotr(x, n)`: circular right rotation of a word (40_bit_primitives.md R100), by `n mod 64` (R101). -/
def rotr (x : Word) (n : Nat) : Word := (x >>> (n % 64)) ||| (x <<< (64 - n % 64))

/-- `x >> n`: logical right shift of a word, filling with zeros (40_bit_primitives.md R102). -/
def shr (x : Word) (n : Nat) : Word := x >>> n

end Sys2Proof.Machine
end

