-- ==== Sys2Proof/Machine/Datapath.lean ====
section
/-!
DEFINITION. The compression datapath of 44_compression.md: the four mixing functions, the two temporaries, one round
and the feed-forward sums.
-/
namespace Sys2Proof.Machine

/-- `Sigma0(a)` (44_compression.md R180). -/
def bigSigma0 (a : Word) : Word := rotr a 28 ^^^ rotr a 34 ^^^ rotr a 39

/-- `Sigma1(e)` (44_compression.md R181). -/
def bigSigma1 (e : Word) : Word := rotr e 14 ^^^ rotr e 18 ^^^ rotr e 41

/-- `Ch(e, f, g)`, the choose function (44_compression.md R182). -/
def ch (e f g : Word) : Word := (e &&& f) ^^^ (~~~e &&& g)

/-- `Maj(a, b, c)`, the majority function (44_compression.md R183). -/
def maj (a b c : Word) : Word := (a &&& b) ^^^ (a &&& c) ^^^ (b &&& c)

/-- `T1` of a round on the working variables `v`, the round constant `k` and the schedule word `w`
(44_compression.md R184). -/
def temp1 (v : Vector Word 8) (k w : Word) : Word := v[7] + bigSigma1 v[4] + ch v[4] v[5] v[6] + k + w

/-- `T2` of a round (44_compression.md R185). -/
def temp2 (v : Vector Word 8) : Word := bigSigma0 v[0] + maj v[0] v[1] v[2]

/-- `round(v, k, w)`: every right side reads the old `v` (44_compression.md R186). -/
def shaRound (v : Vector Word 8) (k w : Word) : Vector Word 8 :=
  #v[temp1 v k w + temp2 v, v[0], v[1], v[2], v[3] + temp1 v k w, v[4], v[5], v[6]]

/-- The eight feed-forward sums `H[i] + V[i]` (44_compression.md R187, R195). -/
def feedForward (h v : Vector Word 8) : Vector Word 8 := Vector.ofFn fun i => h[i] + v[i]

end Sys2Proof.Machine
end

