-- ==== Sys2Proof/Config.lean ====
section
/-!
DEFINITION. The parameters of the hardware that the spec fixes (00_scope.md R8, R9) and that the model names where it
uses them. No value of this hardware is left free: the spec names none.
-/
namespace Sys2Proof.Config

/-- Bytes of one block (R8, `BLOCK_BYTES`). -/
def blockBytes : Nat := 128

/-- Rounds of one block, each one ROUND edge (R8, `ROUNDS`; R9, `ROUNDS_PER_EDGE` = 1). -/
def rounds : Nat := 80

/-- Width of the bit-length trailer of the padding (R8, `LEN_FIELD_BITS`). -/
def lenFieldBits : Nat := 128

/-- Edges from the acceptance of a compressing command to the edge that completes it (R9, `BLOCK_LATENCY`). -/
def blockLatency : Nat := 81

end Sys2Proof.Config
end

