-- ==== Sys2Proof/Syntax.lean ====
section
/-!
DEFINITION. The commands of the block, one constructor per row of spec/opcode_table.json (30_encoding.md R75). A
compressing command carries the block that `blk_data` holds at its accepting edge (R73, R76).
-/
namespace Sys2Proof

/-- The command set (30_encoding.md R75). -/
inductive Instr where
  /-- `cmd_op = 00`, no operand (45_controller.md R220). -/
  | init
  /-- `cmd_op = 01`, the block on `blk_data` (45_controller.md R223). -/
  | block (blk : Block)
  /-- `cmd_op = 10`, the block on `blk_data` (45_controller.md R226). -/
  | initBlock (blk : Block)
  /-- `cmd_op = 11`, the reserved code, no operand (45_controller.md R228). -/
  | reserved
  deriving DecidableEq, Repr

end Sys2Proof
end

