-- ==== Sys2Proof/WellFormed.lean ====
section
/-!
DEFINITION. What is well formed: every command of the inductive (every block value is legal, 45_controller.md R223), a
byte sequence that is one whole block (20_memory.md R53), a message the padding can encode (41_host_padding.md R128).
-/
namespace Sys2Proof

/-- Every command is well formed: a block operand has its width by its type and "every block value is legal"
(45_controller.md R223, R226); INIT and the reserved code take no operand. -/
def Instr.wf : Instr → Bool
  | .init => true
  | .block _ => true
  | .initBlock _ => true
  | .reserved => true

/-- A byte sequence is a block operand when it has exactly 128 bytes: "there is no partial block" (20_memory.md R53). -/
def wholeBlock (bytes : List Byte) : Bool := bytes.length == Config.blockBytes

/-- `8 * L < 2^128` for a message of `L` bytes (41_host_padding.md R128). -/
def lengthInDomain (L : Nat) : Bool := decide (8 * L < 2 ^ Config.lenFieldBits)

end Sys2Proof
end

