-- ==== Sys2Proof/Machine/Operands.lean ====
section
/-!
DEFINITION. The one operand form, the block on `blk_data`: its bytes and its words (20_memory.md R50, 30_encoding.md
R76, R77).
-/
namespace Sys2Proof.Machine

/-- Byte `j` of a block, `blk_data[1023-8j : 1016-8j]`, for `j` in 0..127 (30_encoding.md R76). -/
def blockByte (b : Block) (j : Nat) : Byte := b.extractLsb' (1016 - 8 * j) 8

/-- Word `t` of a block, `blk_data[1023-64t : 960-64t]`, for `t` in 0..15 (30_encoding.md R77). -/
def blockWord (b : Block) (t : Nat) : Word := b.extractLsb' (960 - 64 * t) 64

/-- `words(blk_data)`: the 16 message words (45_controller.md R237). -/
def blockWords (b : Block) : Vector Word 16 := Vector.ofFn fun t => blockWord b t

/-- The 128 bytes of a block, byte 0 first (30_encoding.md R76). -/
def bytesOfBlock (b : Block) : List Byte := (List.range 128).map (blockByte b)

/-- `B[0] ++ B[1] ++ ... ++ B[127]`, byte 0 in the top bits (30_encoding.md R76). -/
def blockOfBytes (bytes : List Byte) : Block :=
  bytes.foldl (fun acc x => (acc <<< 8) ||| x.setWidth 1024) 0

/-- The block a byte sequence stands for, where it is one whole block (20_memory.md R53). -/
def wholeBlockOfBytes (bytes : List Byte) : Option Block :=
  if wholeBlock bytes then some (blockOfBytes bytes) else none

end Sys2Proof.Machine
end

