-- ==== Sys2Proof/Decode.lean ====
section
/-!
DEFINITION. Decoding of a command transfer on the ports (30_encoding.md R73, R75, R83), the encoder, and the same two
on a byte image of a transfer, which is the model's own serialisation (notes/assumptions/5.md).
-/
namespace Sys2Proof

/-- Why the ports at an accepting edge give no command (30_encoding.md R83). -/
inductive DecodeRefusal where
  /-- A bit of `cmd_op` is unknown at the edge that takes it. -/
  | unknownOpcode
  /-- A bit of `blk_data` is unknown at an edge that accepts BLOCK or INIT_BLOCK. -/
  | unknownBlock
  deriving DecidableEq, Repr

/-- Why a byte image gives no command. -/
inductive ImageRefusal where
  /-- The image is empty. -/
  | noTransfer
  /-- The opcode byte has a bit above the two bits of `cmd_op` (30_encoding.md R70, R73). -/
  | notATwoBitCode
  /-- Fewer than the 128 bytes of `blk_data` follow (20_memory.md R53). -/
  | partialBlock
  /-- The ports the image stands for give no command. -/
  | ports (e : DecodeRefusal)
  deriving DecidableEq, Repr

/-- The command a compressing opcode and the block port give; an unknown block refuses (30_encoding.md R83). -/
def withBlock (command : Block → Instr) (blk : Pin Block) : Except DecodeRefusal Instr :=
  match blk with
  | .known b => .ok (command b)
  | .unknown => .error .unknownBlock

/-- The opcode map (30_encoding.md R75): all four codes are assigned. `blk_data` matters to BLOCK and INIT_BLOCK only
(R74). -/
def decodeOp (op : Op) (blk : Pin Block) : Except DecodeRefusal Instr :=
  if op = 0b00#2 then .ok .init
  else if op = 0b01#2 then withBlock .block blk
  else if op = 0b10#2 then withBlock .initBlock blk
  else .ok .reserved

/-- Decoding the ports `cmd_op` and `blk_data` at an edge that accepts a command (30_encoding.md R73, R83). -/
def decodePorts (op : Pin Op) (blk : Pin Block) : Except DecodeRefusal Instr :=
  match op with
  | .known o => decodeOp o blk
  | .unknown => .error .unknownOpcode

/-- The opcode of a command (30_encoding.md R75). -/
def encodeOp : Instr → Op
  | .init => 0b00#2
  | .block _ => 0b01#2
  | .initBlock _ => 0b10#2
  | .reserved => 0b11#2

/-- What the encoder puts on `blk_data`: the operand, or nothing for a command that takes none (30_encoding.md R74). -/
def encodeBlk : Instr → Pin Block
  | .init => .unknown
  | .block b => .known b
  | .initBlock b => .known b
  | .reserved => .unknown

/-- The port values of a command: `cmd_op` and `blk_data`. -/
def encode (i : Instr) : Pin Op × Pin Block := (.known (encodeOp i), encodeBlk i)

/-- Decoding the first transfer of a byte sequence: the opcode byte, then the 128 bytes of `blk_data`, byte 0 first.
Every transfer has this one length (30_encoding.md R73). -/
def decodeImage (bytes : List Byte) : Except ImageRefusal (Instr × List Byte) :=
  match bytes with
  | [] => .error .noTransfer
  | c :: rest =>
    if c.toNat < 4 then
      match Machine.wholeBlockOfBytes (rest.take 128) with
      | none => .error .partialBlock
      | some b =>
        match decodePorts (.known (c.setWidth 2)) (.known b) with
        | .ok i => .ok (i, rest.drop 128)
        | .error e => .error (.ports e)
    else .error .notATwoBitCode

/-- The byte image of a command; `blk_data` is zero where the command takes no block. -/
def encodeImage (i : Instr) : List Byte :=
  (encodeOp i).setWidth 8 ::
    Machine.bytesOfBlock (match encodeBlk i with | .known b => b | .unknown => 0)

/-- Byte `k` of an instruction numbered as spec/opcode_table.json numbers it: bits `8k+7..8k`, where every bit at or
above `nbits` is 0. -/
def tableByte (nbits w k : Nat) : Nat := ((w % 2 ^ nbits) >>> (8 * k)) % 256

/-- The opcode port of a numbered instruction: the two low bits of its first byte where the other six are 0. -/
def tableOp (nbits w : Nat) : Pin Op :=
  if tableByte nbits w 0 < 4 then .known (BitVec.ofNat 2 (tableByte nbits w 0)) else .unknown

/-- The block port of a numbered instruction: the 128 bytes after its first, byte 0 of the block first. -/
def tableBlk (nbits w : Nat) : Pin Block :=
  .known (Machine.blockOfBytes ((List.range 128).map fun j => BitVec.ofNat 8 (tableByte nbits w (j + 1))))

/-- What the decoder reads from a numbered instruction, `none` where it refuses. -/
def decodeTableWord (nbits w : Nat) : Option Instr :=
  match decodePorts (tableOp nbits w) (tableBlk nbits w) with
  | .ok i => some i
  | .error _ => none

end Sys2Proof
end

