-- ==== Sys2Proof/Machine/State.lean ====
section
/-!
DEFINITION. The state of the block (10_state.md), what the host drives, the reasons a step can stop, and the state
after reset (70_reset_and_hazards.md R290, R292).
-/
namespace Sys2Proof.Machine

/-- The controller state, a 2-bit register (10_state.md R33). -/
inductive Fsm where
  /-- Code 0, IDLE: no block in progress. -/
  | idle
  /-- Code 1, ROUND: the 80 rounds of a block are in progress. -/
  | round
  /-- Code 2, FEED: the next edge performs the feed-forward. -/
  | feed
  /-- Code 3: no state of the design, never reached from reset (10_state.md R33; 93_implementation_defined.md). -/
  | unused
  deriving DecidableEq, Repr

/-- What the host drives on the input ports at one rising edge (30_encoding.md R70). -/
structure PortInput where
  rst : Pin Bool
  cmdValid : Pin Bool
  cmdOp : Pin Op
  blkData : Pin Block
  deriving DecidableEq, Repr

/-- The host offers nothing: `rst = 0`, `cmd_valid = 0`, the other ports undriven (46_host_driver.md R257). -/
def PortInput.quiet : PortInput := ⟨.known false, .known false, .unknown, .unknown⟩

/-- The state of one block (10_state.md section 1). -/
structure State where
  /-- State register file `H[0..8)` (R20). -/
  H : Vector Word 8
  /-- Working registers `V[0..8)` = a, b, c, d, e, f, g, h (R25). -/
  V : Vector Word 8
  /-- Which entries of `V` have been written since reset (R26, R34). -/
  vWritten : Vector Bool 8
  /-- Schedule window `Wwin[0..16)` (R28). -/
  Wwin : Vector Word 16
  /-- Which entries of `Wwin` have been written since reset (R29, R34). -/
  wwinWritten : Vector Bool 16
  /-- Round counter (R32). -/
  t : BitVec 7
  /-- Controller state (R33). -/
  fsm : Fsm
  /-- Digest-valid bit (R36). -/
  dv : Bool
  /-- Command-error bit, sticky (R37). -/
  err : Bool
  /-- What the host drives at the coming edges, the next edge first (notes/assumptions/2.md). -/
  inputs : List PortInput
  deriving DecidableEq, Repr

/-- Why a step stops with a fault. The block itself raises no exception (60_exceptions.md R270): each of these marks a
state that no run from reset reaches. -/
inductive Fault where
  /-- Raised by a ROUND or FEED edge that reads an unwritten entry of `V`. The spec states the stop: "A model must treat a
  read of an unwritten `V` entry as a fault" (10_state.md R26). Safe. -/
  | unwrittenWorking
  /-- Raised by a ROUND edge that reads an unwritten entry of `Wwin`. The spec states the stop: "a read of an unwritten
  entry is a fault" (10_state.md R29). Safe. -/
  | unwrittenWindow
  /-- Raised by a ROUND edge whose `t` is above 79: the ROM has no such entry (20_memory.md R55). Safe. -/
  | romIndex
  /-- Raised by an edge with `rst = 0` in controller code 3, which has no step (93_implementation_defined.md). Safe. -/
  | controllerStuck
  deriving DecidableEq, Repr

/-- Why a step has no run. -/
inductive Refusal where
  /-- Raised by an arm of `exec` that has no meaning yet; no arm answers it now. Safe. -/
  | notModelled (mnemonic : String)
  /-- Raised at an edge with an unknown `rst` (30_encoding.md R83). Safe. -/
  | unknownReset
  /-- Raised at an edge with an unknown `cmd_valid` while `cmd_ready = 1` (30_encoding.md R83). Safe. -/
  | unknownValid
  /-- Raised at an edge that takes a `cmd_op` with an unknown bit (30_encoding.md R83). Safe. -/
  | unknownOpcode
  /-- Raised at an edge that takes a `blk_data` with an unknown bit (30_encoding.md R83). Safe. -/
  | unknownBlock
  /-- Raised by the host, before any command, for a message with `8 * L >= 2^128` (41_host_padding.md R128). Safe. -/
  | lengthOutOfDomain
  /-- Raised by the host at the end of the digest procedure where what it read has `digest_valid = 0`
  (46_host_driver.md R250; notes/assumptions/15.md). Safe. -/
  | digestNotValid
  deriving DecidableEq, Repr

/-- The state after a reset edge (70_reset_and_hazards.md R290, R292). The words of `V` and `Wwin` are a DESIGN CHOICE
(notes/assumptions/1.md): the spec gives none, and their tags say that no rule may read them. -/
def State.reset : State where
  H := iv
  V := Vector.replicate 8 0
  vWritten := Vector.replicate 8 false
  Wwin := Vector.replicate 16 0
  wwinWritten := Vector.replicate 16 false
  t := 0
  fsm := .idle
  dv := false
  err := false
  inputs := []

end Sys2Proof.Machine
end

