-- ==== Sys2Proof/Machine/Ops.lean ====
section
/-!
DEFINITION. The named operations on the registers and on the host's inputs: the reads that can fault, the writes, the
reset edge and the start of a block. The block takes no exception and returns from none (60_exceptions.md R270, R275,
R276): the one thing an abnormal command does is `setErr`.
-/
namespace Sys2Proof.Machine

/-- What the host drives at the next edge; past the end of the list it offers nothing (notes/assumptions/2.md). -/
def nextInput (s : State) : PortInput :=
  match s.inputs with
  | [] => .quiet
  | p :: _ => p

/-- The host's inputs after the next edge. -/
def dropInput (s : State) : State := { s with inputs := s.inputs.tail }

/-- The read of all of `V`: nothing where an entry is unwritten (10_state.md R26). -/
def readWorking (s : State) : Option (Vector Word 8) :=
  if s.vWritten.toList.all id then some s.V else none

/-- The read of all of `Wwin`: nothing where an entry is unwritten (10_state.md R29). -/
def readWindow (s : State) : Option (Vector Word 16) :=
  if s.wwinWritten.toList.all id then some s.Wwin else none

/-- The write of all of `V` (10_state.md R25). -/
def writeWorking (v : Vector Word 8) (s : State) : State :=
  { s with V := v, vWritten := Vector.replicate 8 true }

/-- The write of all of `Wwin` (42_message_schedule.md R146, R148). -/
def writeWindow (w : Vector Word 16) (s : State) : State :=
  { s with Wwin := w, wwinWritten := Vector.replicate 16 true }

/-- `H[i] <- IV[i]` for all i (45_controller.md R220, R226). -/
def loadIV (s : State) : State := { s with H := iv }

/-- `dv <- 0` (10_state.md R36). -/
def clearValid (s : State) : State := { s with dv := false }

/-- `err <- 1` (10_state.md R37; 60_exceptions.md R275). -/
def setErr (s : State) : State := { s with err := true }

/-- The acceptance edge of a compressing command whose working variables start from `h`: loads of `V` and of the
window, `t <- 0`, `fsm <- ROUND`, `dv <- 0` (45_controller.md R223, R226; 42_message_schedule.md R146). -/
def startBlock (h : Vector Word 8) (blk : Block) (s : State) : State :=
  clearValid { writeWindow (blockWords blk) (writeWorking h s) with t := 0, fsm := .round }

/-- A reset edge (70_reset_and_hazards.md R290): `V` and `Wwin` are not written, and every entry of both counts as
unwritten after it. -/
def resetEdge (s : State) : State :=
  { s with
    H := iv
    vWritten := Vector.replicate 8 false
    wwinWritten := Vector.replicate 16 false
    t := 0
    fsm := .idle
    dv := false
    err := false }

/-- A decoder's refusal at an accepting edge (30_encoding.md R83). -/
def refusalOf : DecodeRefusal → Refusal
  | .unknownOpcode => .unknownOpcode
  | .unknownBlock => .unknownBlock

/-- The host offers a command: `rst = 0`, `cmd_valid = 1`, its opcode and its block (30_encoding.md R84). -/
def offer (i : Instr) : PortInput := ⟨.known false, .known true, (encode i).1, (encode i).2⟩

/-- The offer of a numbered instruction (notes/assumptions/5.md). -/
def offerOfTableWord (nbits w : Nat) : PortInput := ⟨.known false, .known true, tableOp nbits w, tableBlk nbits w⟩

/-- A state whose next edge accepts the offer: the controller in IDLE and the offer first among the inputs
(notes/assumptions/4.md). -/
def placeOffer (p : PortInput) (s : State) : State := { s with fsm := .idle, inputs := p :: s.inputs }

end Sys2Proof.Machine
end

