-- ==== Sys2Proof/Machine/Flags.lean ====
section
/-!
DEFINITION. The outputs of the block, each a function of the registers alone (30_encoding.md R71): `cmd_ready`, the
status bits and the digest port. There are no condition codes (10_state.md R35).
-/
namespace Sys2Proof.Machine

/-- The 2-bit code of the controller state (10_state.md R33). -/
def fsmCode : Fsm → BitVec 2
  | .idle => 0
  | .round => 1
  | .feed => 2
  | .unused => 3

/-- `cmd_ready = (fsm = IDLE)` (30_encoding.md R72). -/
def cmdReady (s : State) : Bool := decide (s.fsm = .idle)

/-- Status bit 0, `busy`: 1 iff `fsm != IDLE` (10_state.md R38). -/
def busy (s : State) : Bool := decide (s.fsm ≠ .idle)

/-- The status port `err ++ dv ++ busy` (10_state.md R38, 30_encoding.md R81). -/
def status (s : State) : BitVec 3 := BitVec.ofBool s.err ++ BitVec.ofBool s.dv ++ BitVec.ofBool (busy s)

/-- Eight words as one 512-bit value, word 0 in the top bits (30_encoding.md R80). -/
def digestOfWords (h : Vector Word 8) : Digest := h[0] ++ h[1] ++ h[2] ++ h[3] ++ h[4] ++ h[5] ++ h[6] ++ h[7]

/-- The digest port, driven at all times (30_encoding.md R80). -/
def digest (s : State) : Digest := digestOfWords s.H

end Sys2Proof.Machine
end

