-- ==== Sys2Proof/Machine/Schedule.lean ====
section
/-!
DEFINITION. The message schedule expander of 42_message_schedule.md: the two mixing functions, the expander output and
the window shift of the hardware (section 3).
-/
namespace Sys2Proof.Machine

/-- `sigma0(x)`, the first schedule mixing function (42_message_schedule.md R140). -/
def sigma0 (x : Word) : Word := rotr x 1 ^^^ rotr x 8 ^^^ shr x 7

/-- `sigma1(x)`, the second schedule mixing function (42_message_schedule.md R141). -/
def sigma1 (x : Word) : Word := rotr x 19 ^^^ rotr x 61 ^^^ shr x 6

/-- The expander output `w_new` (42_message_schedule.md R147). -/
def windowNew (w : Vector Word 16) : Word := w[0] + sigma0 w[1] + w[9] + sigma1 w[14]

/-- The window shift of a ROUND edge (42_message_schedule.md R148). -/
def shiftWindow (w : Vector Word 16) : Vector Word 16 :=
  Vector.ofFn fun j => if h : j.val < 15 then w[j.val + 1] else windowNew w

end Sys2Proof.Machine
end

