-- ==== Sys2Proof/Machine/Controller.lean ====
section
/-!
DEFINITION. What the controller does by itself at an edge with `rst = 0` that accepts no command: hold in IDLE, one
round in ROUND, the feed-forward in FEED (45_controller.md R211 to R214, R231, R233).
-/
namespace Sys2Proof.Machine

/-- The controller's part of a ROUND edge (45_controller.md R231). -/
def nextRound (s : State) : State :=
  if s.t = 79#7 then { s with t := 0#7, fsm := .feed } else { s with t := s.t + 1#7 }

/-- A ROUND edge: the round update, the window shift and the counter, all from the values before the edge
(44_compression.md R192, 42_message_schedule.md R148, 45_controller.md R231). -/
def roundEdge (s : State) : Host.Outcome State Fault Refusal :=
  match readWorking s, readWindow s, romRead s.t with
  | none, _, _ => .fault .unwrittenWorking
  | some _, none, _ => .fault .unwrittenWindow
  | some _, some _, none => .fault .romIndex
  | some v, some w, some k => .next (nextRound (writeWindow (shiftWindow w) (writeWorking (shaRound v k w[0]) s)))

/-- A FEED edge: the feed-forward, `dv <- 1`, `fsm <- IDLE` (44_compression.md R195, 45_controller.md R233). -/
def feedEdge (s : State) : Host.Outcome State Fault Refusal :=
  match readWorking s with
  | none => .fault .unwrittenWorking
  | some v => .next { s with H := feedForward s.H v, dv := true, fsm := .idle }

/-- An edge with `rst = 0` that accepts no command (45_controller.md R211, R213, R214). -/
def quietEdge (s : State) : Host.Outcome State Fault Refusal :=
  match s.fsm with
  | .idle => .next s
  | .round => roundEdge s
  | .feed => feedEdge s
  | .unused => .fault .controllerStuck

/-- An edge with `rst = 0` at which a command is offered: in IDLE it is accepted and executed, in every other state it
has no effect and the controller goes on (45_controller.md R212, R214). -/
def offered (accept : State → State) (s : State) : Host.Outcome State Fault Refusal :=
  match s.fsm with
  | .idle => .next (accept s)
  | .round => quietEdge s
  | .feed => quietEdge s
  | .unused => quietEdge s

end Sys2Proof.Machine
end

