-- ==== Sys2Proof/Machine/Commands.lean ====
section
/-!
DEFINITION. The meanings of the four commands (45_controller.md section 2): what an edge with `rst = 0` does when the
host offers the command at it.
-/
namespace Sys2Proof.Machine

/-- INIT: `H <- IV`, `dv <- 0` (45_controller.md R220). -/
def execInit (s : State) : Host.Outcome State Fault Refusal :=
  offered (fun s => clearValid (loadIV s)) s

/-- BLOCK: the working variables start from `H` (45_controller.md R223). -/
def execBlock (blk : Block) (s : State) : Host.Outcome State Fault Refusal :=
  offered (fun s => startBlock s.H blk s) s

/-- INIT_BLOCK: `H <- IV` and the working variables start from `IV` (45_controller.md R226). -/
def execInitBlock (blk : Block) (s : State) : Host.Outcome State Fault Refusal :=
  offered (fun s => startBlock iv blk (loadIV s)) s

/-- The reserved command: `err <- 1` (45_controller.md R228). -/
def execReserved (s : State) : Host.Outcome State Fault Refusal :=
  offered setErr s

end Sys2Proof.Machine
end

