-- ==== Sys2Proof/Machine/Dispatch.lean ====
section
/-!
DEFINITION. One arm per command of spec/opcode_table.json.
-/
namespace Sys2Proof.Machine

def exec (i : Instr) (s : State) : Host.Outcome State Fault Refusal :=
  match i with
  | .init => Sys2Proof.Machine.execInit s
  | .block blk => Sys2Proof.Machine.execBlock blk s
  | .initBlock blk => Sys2Proof.Machine.execInitBlock blk s
  | .reserved => Sys2Proof.Machine.execReserved s

end Sys2Proof.Machine
end

