-- ==== Sys2Proof/Machine/Edge.lean ====
section
/-!
DEFINITION. One rising edge of `clk` with given port inputs (45_controller.md R211, R237).
-/
namespace Sys2Proof.Machine

/-- The edge at which the host offers the command on `op` and `blk` and the controller is in IDLE: decode, then run
(45_controller.md R212); an unknown bit that the edge takes refuses (30_encoding.md R83). -/
def acceptEdge (op : Pin Op) (blk : Pin Block) (s : State) : Host.Outcome State Fault Refusal :=
  match decodePorts op blk with
  | .ok i => exec i s
  | .error e => .refused (refusalOf e)

/-- An edge with `rst = 0` in IDLE (45_controller.md R212, R213). -/
def idleEdge (p : PortInput) (s : State) : Host.Outcome State Fault Refusal :=
  match p.cmdValid with
  | .unknown => .refused .unknownValid
  | .known false => quietEdge s
  | .known true => acceptEdge p.cmdOp p.blkData s

/-- One rising edge: reset first, then the controller state decides (45_controller.md R211). The command ports are
looked at in IDLE only (R214, 30_encoding.md R74). -/
def clockEdge (p : PortInput) (s : State) : Host.Outcome State Fault Refusal :=
  match p.rst with
  | .unknown => .refused .unknownReset
  | .known true => .next (resetEdge s)
  | .known false =>
    match s.fsm with
    | .idle => idleEdge p s
    | .round => quietEdge s
    | .feed => quietEdge s
    | .unused => quietEdge s

end Sys2Proof.Machine
end

