-- ==== Sys2Proof/Machine/Step.lean ====
section
/-!
DEFINITION. One step of the machine is one rising edge of `clk` with the next of the host's inputs, and the placing of
a command where the next step takes it.
-/
namespace Sys2Proof.Machine

/-- One rising edge with what the host drives at it (45_controller.md R237). -/
def step (s : State) : Host.Outcome State Fault Refusal := clockEdge (nextInput s) (dropInput s)

/-- `s` with the numbered instruction offered at the next edge and the controller ready for it. -/
def State.withFetchWord (s : State) (nbits w : Nat) : State := placeOffer (offerOfTableWord nbits w) s

end Sys2Proof.Machine
end

