-- ==== Sys2Proof/Machine/Reference.lean ====
section
/-!
DEFINITION. The normative functions the hardware must agree with: the schedule of a block (42_message_schedule.md
section 2) and the per-block function (44_compression.md section 2). They are written over the whole 80-word schedule,
apart from the registers and the 16-word window of the circuit.
-/
namespace Sys2Proof.Machine

/-- Schedule word `j` of a list of words; every rule reads words that are there. -/
def wordAt (ws : List Word) (j : Nat) : Word := ws.getD j 0

/-- The schedule with its next word `W[i]`, `i` the number of words so far (42_message_schedule.md R143). -/
def extendSchedule (ws : List Word) : List Word :=
  ws ++ [wordAt ws (ws.length - 16) + sigma0 (wordAt ws (ws.length - 15)) + wordAt ws (ws.length - 7)
    + sigma1 (wordAt ws (ws.length - 2))]

/-- The message words and the next `n` words of the schedule (42_message_schedule.md R142, R143). -/
def scheduleTo (b : Block) : Nat → List Word
  | 0 => (blockWords b).toList
  | n + 1 => extendSchedule (scheduleTo b n)

/-- `W(B)`: the 80 schedule words of a block (42_message_schedule.md R142, R143). -/
def schedule (b : Block) : List Word := scheduleTo b 64

/-- The working variables after the first `n` rounds (44_compression.md R187). -/
def workAfter (h : Vector Word 8) (ws : List Word) : Nat → Vector Word 8
  | 0 => h
  | n + 1 => shaRound (workAfter h ws n) (kConst n) (wordAt ws n)

/-- `compress(Hin, W)` (44_compression.md R187). -/
def compress (h : Vector Word 8) (ws : List Word) : Vector Word 8 := feedForward h (workAfter h ws Config.rounds)

end Sys2Proof.Machine
end

