-- ==== Sys2Proof/Machine/Padding.lean ====
section
/-!
DEFINITION. The host-side padder of 41_host_padding.md, and the digest of a message as a function (46_host_driver.md
R252). No part of the circuit (41_host_padding.md R120).
-/
namespace Sys2Proof.Machine

/-- `bytes_be(v, n)`: the `n`-byte big-endian encoding of `v` (00_scope.md R14). R14 gives it for `v < 2^(8n)` only; of
a larger `v` it keeps the low `n` bytes, a DESIGN CHOICE (notes/assumptions/18.md) that `paddedBlocks` never reaches. -/
def bytesBE (v n : Nat) : List Byte := (List.range n).map fun k => BitVec.ofNat 8 (v >>> (8 * (n - 1 - k)))

/-- `z`, the number of zero bytes for a message of `L` bytes (41_host_padding.md R121; conflict C2). -/
def zeroBytes (L : Nat) : Nat := (111 + 128 - L % 128) % 128

/-- `pad(M)` (41_host_padding.md R121, R123), for a message in the domain of R128; `paddedBlocks` checks the domain. -/
def pad (m : List Byte) : List Byte :=
  m ++ [0x80#8] ++ List.replicate (zeroBytes m.length) 0#8 ++ bytesBE (8 * m.length) 16

/-- Block `k` of a padded buffer: bytes `128k .. 128k+127` (41_host_padding.md R130). -/
def blockAt (p : List Byte) (k : Nat) : Block := blockOfBytes ((p.drop (Config.blockBytes * k)).take Config.blockBytes)

/-- The blocks of a padded buffer, block 0 first (41_host_padding.md R130). -/
def blocksOf (p : List Byte) : List Block := (List.range (p.length / Config.blockBytes)).map (blockAt p)

/-- The blocks of `pad(M)`, block 0 first; nothing where the message is too long for the trailer
(41_host_padding.md R128). The host's lines get their blocks here. -/
def paddedBlocks (m : List Byte) : Option (List Block) :=
  if lengthInDomain m.length then some (blocksOf (pad m)) else none

/-- `F(M) = foldl(compress, IV, blocks(pad(M)))` (46_host_driver.md R252). -/
def messageDigest (m : List Byte) : Vector Word 8 :=
  (blocksOf (pad m)).foldl (fun h b => compress h (schedule b)) iv

end Sys2Proof.Machine
end

