-- ==== Sys2Proof/Machine/Driver.lean ====
section
/-!
DEFINITION. The host of the block: the lines of a command stream (30_encoding.md R84, R85), how the host carries them
out edge by edge, hex rendering (46_host_driver.md R253) and the digest procedure (R250).
-/
namespace Sys2Proof.Machine

/-- One line of a command stream (30_encoding.md R84, R85). -/
inductive HostLine where
  /-- Keep offering the command until an edge accepts it (R84). -/
  | command (i : Instr)
  /-- Drive `cmd_valid = 0` until `busy = 0` (R85). -/
  | wait
  /-- Sample `digest` and `status` (R85). -/
  | read
  /-- The digest procedure for a message (R85, 46_host_driver.md R250). -/
  | hash (m : List Byte)
  deriving DecidableEq, Repr

/-- What a READ samples (30_encoding.md R85). -/
structure Readout where
  digest : Digest
  status : BitVec 3
  deriving DecidableEq, Repr

/-- The sample of the outputs in the current cycle; it changes nothing (20_memory.md R54). -/
def readout (s : State) : Readout := ⟨digest s, status s⟩

/-- The commands of the digest procedure for the blocks of a message: INIT_BLOCK, then BLOCK for each further block
(46_host_driver.md R250). -/
def blockCommands : List Block → List HostLine
  | [] => []
  | b :: bs => .command (.initBlock b) :: bs.map fun c => .command (.block c)

/-- The expansion of HASH (30_encoding.md R85); a message too long for the trailer is refused before any command
(41_host_padding.md R128). -/
def hashLines (m : List Byte) : Except Refusal (List HostLine) :=
  match paddedBlocks m with
  | some bs => .ok (blockCommands bs ++ [.wait, .read])
  | none => .error .lengthOutOfDomain

/-- The host at work: the block, the lines still to do, what the READ lines sampled, and the rising edges so far. -/
structure HostRun where
  block : State
  todo : List HostLine
  seen : List Readout
  edges : Nat
  deriving DecidableEq, Repr

/-- One edge with the given inputs, after which the host has the given lines to do. -/
def hostEdge (p : PortInput) (todo : List HostLine) (r : HostRun) : Host.Outcome HostRun Fault Refusal :=
  match clockEdge p r.block with
  | .next s => .next { r with block := s, todo := todo, edges := r.edges + 1 }
  | .fault f => .fault f
  | .refused e => .refused e

/-- One move of the host (30_encoding.md R84, R85): a command line takes edges until one accepts it, WAIT takes edges
while `busy = 1`, READ and the expansion of HASH take none. The spec does not say what the host does after its last
line; here it makes no further edge, so a block that the last line starts stays where it is: a DESIGN CHOICE
(notes/assumptions/15.md). -/
def hostMove (r : HostRun) : Host.Outcome HostRun Fault Refusal :=
  match r.todo with
  | [] => .next r
  | .command i :: rest => hostEdge (offer i) (if cmdReady r.block then rest else r.todo) r
  | .wait :: rest => if busy r.block then hostEdge .quiet r.todo r else .next { r with todo := rest }
  | .read :: rest => .next { r with todo := rest, seen := r.seen ++ [readout r.block] }
  | .hash m :: rest =>
    match hashLines m with
    | .ok ls => .next { r with todo := ls ++ rest }
    | .error e => .refused e

/-- `n` moves of the host, stopping at the first fault or refusal. -/
def hostMoves : Nat → HostRun → Host.Outcome HostRun Fault Refusal
  | 0, r => .next r
  | n + 1, r =>
    match hostMove r with
    | .next r' => hostMoves n r'
    | .fault f => .fault f
    | .refused e => .refused e

/-- The host with a command stream to carry out on a block. -/
def hostStart (s : State) (lines : List HostLine) : HostRun := ⟨s, lines, [], 0⟩

/-- The 16 hex digits, lower case (46_host_driver.md R253). -/
def hexDigits : List Char := ['0', '1', '2', '3', '4', '5', '6', '7', '8', '9', 'a', 'b', 'c', 'd', 'e', 'f']

/-- One hex digit (46_host_driver.md R253). -/
def hexDigit (d : BitVec 4) : Char := hexDigits.getD d.toNat '0'

/-- The 16 characters of a word, the first for bits 63..60 (46_host_driver.md R253). -/
def hexWord (x : Word) : List Char := (List.range 16).map fun k => hexDigit (x.extractLsb' (60 - 4 * k) 4)

/-- The 8 words rendered in order (46_host_driver.md R253). -/
def hexDigest (h : Vector Word 8) : List Char := h.toList.flatMap hexWord

/-- The 8 words on the digest port, `H[i] = digest[511-64i : 448-64i]` (30_encoding.md R80). -/
def wordsOfDigest (d : Digest) : Vector Word 8 := Vector.ofFn fun i => d.extractLsb' (448 - 64 * i.val) 64

/-- `hex(digest)` of a value sampled on the digest port (46_host_driver.md R253). -/
def hexPort (d : Digest) : List Char := hexDigest (wordsOfDigest d)

/-- The end of the digest procedure on what the host has read: `require status.digest_valid = 1; return hex(digest)`
(46_host_driver.md R250). -/
def returnHex (o : Readout) : Except Refusal (List Char) :=
  if o.status[1] then .ok (hexPort o.digest) else .error .digestNotValid

/-- What the digest procedure for a message has come to after `n` moves of the host: nothing before its read, then the
string it returns (46_host_driver.md R250). -/
def digestAfter (n : Nat) (m : List Byte) (s : State) : Host.Outcome (Option (List Char)) Fault Refusal :=
  match hostMoves n (hostStart s [.hash m]) with
  | .next r =>
    match r.seen with
    | [] => .next none
    | o :: _ =>
      match returnHex o with
      | .ok text => .next (some text)
      | .error e => .refused e
  | .fault f => .fault f
  | .refused e => .refused e

end Sys2Proof.Machine
end

