-- ==== Sys2Proof/Machine/Assembler.lean ====
section
/-!
DEFINITION. The written form of a command stream (30_encoding.md R84, R85): one line of text to the line it stands for.
-/
namespace Sys2Proof.Machine

/-- Why a line of text is no line of a command stream. -/
inductive LineRefusal where
  /-- The first word is none of R84's and R85's. -/
  | unknownWord
  /-- INIT, WAIT or READ is followed by an operand. -/
  | operandNotTaken
  /-- `.cmd` is followed by something other than `3`. -/
  | rawCodeNotThree
  /-- The operand is neither 256 hex digits nor `pad("<text>")[k]`. -/
  | badBlock
  /-- `pad("<text>")` has no block `k`. -/
  | noSuchBlock
  /-- The text of `pad("<text>")` is too long for the trailer (41_host_padding.md R128). -/
  | lengthOutOfDomain
  /-- The text of HASH or pad is not in double quotes or holds a character that is not ASCII. -/
  | badText
  deriving DecidableEq, Repr

/-- The double quote. -/
def quoteMark : Char := Char.ofNat 34

/-- `;` starts a comment that runs to the end of the line (30_encoding.md R84). -/
def stripComment (line : List Char) : List Char := line.takeWhile fun c => c ≠ ';'

/-- A line without the spaces at its two ends. -/
def trimSpaces (line : List Char) : List Char :=
  ((line.dropWhile fun c => c = ' ').reverse.dropWhile fun c => c = ' ').reverse

/-- The first word of a line and the rest of it. -/
def splitWord (line : List Char) : List Char × List Char :=
  (line.takeWhile fun c => c ≠ ' ', trimSpaces (line.dropWhile fun c => c ≠ ' '))

/-- The value of a hex digit, of either case. -/
def hexValue (c : Char) : Option Nat :=
  if '0'.toNat ≤ c.toNat ∧ c.toNat ≤ '9'.toNat then some (c.toNat - '0'.toNat)
  else if 'a'.toNat ≤ c.toNat ∧ c.toNat ≤ 'f'.toNat then some (c.toNat - 'a'.toNat + 10)
  else if 'A'.toNat ≤ c.toNat ∧ c.toNat ≤ 'F'.toNat then some (c.toNat - 'A'.toNat + 10)
  else none

/-- The bytes two hex digits at a time, byte 0 first (30_encoding.md R84). -/
def hexBytes : List Char → Option (List Byte)
  | [] => some []
  | [_] => none
  | a :: b :: rest =>
    match hexValue a, hexValue b, hexBytes rest with
    | some x, some y, some bs => some (BitVec.ofNat 8 (16 * x + y) :: bs)
    | _, _, _ => none

/-- A decimal number of at least one digit. -/
def decimal (digits : List Char) : Option Nat :=
  if digits.isEmpty then none
  else digits.foldl
    (fun acc c =>
      match acc with
      | some n => if '0'.toNat ≤ c.toNat ∧ c.toNat ≤ '9'.toNat then some (10 * n + (c.toNat - '0'.toNat)) else none
      | none => none)
    (some 0)

/-- The bytes of an ASCII text. -/
def asciiBytes : List Char → Option (List Byte)
  | [] => some []
  | c :: rest =>
    match asciiBytes rest with
    | some bs => if c.toNat < 128 then some (BitVec.ofNat 8 c.toNat :: bs) else none
    | none => none

/-- A text in double quotes, as bytes, and what follows it. -/
def quotedText : List Char → Option (List Byte × List Char)
  | [] => none
  | q :: rest =>
    if q = quoteMark then
      match rest.dropWhile fun c => c ≠ quoteMark, asciiBytes (rest.takeWhile fun c => c ≠ quoteMark) with
      | _ :: after, some bs => some (bs, after)
      | _, _ => none
    else none

/-- `)[k]`, the end of `pad("<text>")[k]`. -/
def blockIndex (cs : List Char) : Option Nat :=
  match cs with
  | ')' :: '[' :: rest =>
    match rest.reverse with
    | ']' :: digits => decimal digits.reverse
    | _ => none
  | _ => none

/-- `pad("<text>")[k]` after its `pad(` (30_encoding.md R84), refused for a text outside the domain of `pad`
(41_host_padding.md R121, R128). -/
def paddedBlock (cs : List Char) : Except LineRefusal Block :=
  match quotedText cs with
  | none => .error .badText
  | some (m, rest) =>
    match blockIndex rest with
    | none => .error .badBlock
    | some k =>
      match paddedBlocks m with
      | none => .error .lengthOutOfDomain
      | some bs =>
        match bs[k]? with
        | some b => .ok b
        | none => .error .noSuchBlock

/-- `<blk>`: 256 hex digits or `pad("<text>")[k]` (30_encoding.md R84). -/
def blockOperand (cs : List Char) : Except LineRefusal Block :=
  match cs with
  | 'p' :: 'a' :: 'd' :: '(' :: rest => paddedBlock rest
  | _ =>
    match hexBytes cs with
    | none => .error .badBlock
    | some bs =>
      match wholeBlockOfBytes bs with
      | none => .error .badBlock
      | some b => .ok b

/-- A word that takes no operand. -/
def bareLine (l : HostLine) (operand : List Char) : Except LineRefusal HostLine :=
  if operand.isEmpty then .ok l else .error .operandNotTaken

/-- A compressing command with its block. -/
def blockLine (command : Block → Instr) (operand : List Char) : Except LineRefusal HostLine :=
  match blockOperand operand with
  | .ok b => .ok (.command (command b))
  | .error e => .error e

/-- `HASH "<text>"` (30_encoding.md R85). -/
def hashLine (operand : List Char) : Except LineRefusal HostLine :=
  match quotedText operand with
  | some (m, []) => .ok (.hash m)
  | _ => .error .badText

/-- The line a first word and its operand stand for (30_encoding.md R84, R85). -/
def lineOf (word operand : List Char) : Except LineRefusal HostLine :=
  if word = ['I', 'N', 'I', 'T'] then bareLine (.command .init) operand
  else if word = ['B', 'L', 'O', 'C', 'K'] then blockLine .block operand
  else if word = ['I', 'N', 'I', 'T', '_', 'B', 'L', 'O', 'C', 'K'] then blockLine .initBlock operand
  else if word = ['.', 'c', 'm', 'd'] then
    if operand = ['3'] then .ok (.command .reserved) else .error .rawCodeNotThree
  else if word = ['W', 'A', 'I', 'T'] then bareLine .wait operand
  else if word = ['R', 'E', 'A', 'D'] then bareLine .read operand
  else if word = ['H', 'A', 'S', 'H'] then hashLine operand
  else .error .unknownWord

/-- One line of text: nothing where it is empty but for spaces and a comment (30_encoding.md R84). -/
def assembleLine (line : List Char) : Except LineRefusal (Option HostLine) :=
  match trimSpaces (stripComment line) with
  | [] => .ok none
  | c :: cs =>
    match lineOf (splitWord (c :: cs)).1 (splitWord (c :: cs)).2 with
    | .ok l => .ok (some l)
    | .error e => .error e

end Sys2Proof.Machine
end

