-- ==== Sys2Proof/Safety.lean ====
section
/-!
DEFINITION. What a legal state is (10_state.md R34) and what the statements say of inputs and outcomes.
-/
namespace Sys2Proof.Machine

/-- The invariant of every state reachable from reset (10_state.md R32 to R34): the counter is in range, it is 0 outside
ROUND, `V` and `Wwin` are written and `dv` is 0 while a block is in progress, and the controller is in one of its three
states. -/
structure State.Legal (s : State) : Prop where
  counter : s.t.toNat ≤ 79
  atRest : s.fsm = .idle ∨ s.fsm = .feed → s.t = 0
  written : s.fsm ≠ .idle → s.vWritten = Vector.replicate 8 true ∧ s.wwinWritten = Vector.replicate 16 true
  notValid : s.fsm ≠ .idle → s.dv = false
  threeStates : s.fsm ≠ .unused

/-- The step ends in a fault. -/
def Faults (o : Host.Outcome State Fault Refusal) : Prop := ∃ f, o = .fault f

/-- An outcome with its next state changed by `f`. -/
def mapNext (f : State → State) : Host.Outcome State Fault Refusal → Host.Outcome State Fault Refusal
  | .next s => .next (f s)
  | .fault e => .fault e
  | .refused r => .refused r

/-- The command the next edge accepts, if any: `rst = 0`, `cmd_valid = 1` and `fsm = IDLE` (45_controller.md R212). -/
def acceptedCommand (s : State) : Option Instr :=
  if (nextInput s).rst = .known false ∧ (nextInput s).cmdValid = .known true ∧ s.fsm = .idle then
    (decodePorts (nextInput s).cmdOp (nextInput s).blkData).toOption
  else none

/-- The next edge accepts a compressing command with block `b`, and the block's working variables start from `h`: the
digest state for BLOCK, `IV` for INIT_BLOCK (44_compression.md R194). -/
def StartsBlock (s : State) (b : Block) (h : Vector Word 8) : Prop :=
  (acceptedCommand s = some (.block b) ∧ h = s.H) ∨ (acceptedCommand s = some (.initBlock b) ∧ h = iv)

/-- What the host can see of an outcome: the three outputs in the cycle after the edge (30_encoding.md R70), or how
the run ended. -/
def observe : Host.Outcome State Fault Refusal → Host.Outcome (Bool × Digest × BitVec 3) Fault Refusal
  | .next s => .next (cmdReady s, digest s, status s)
  | .fault e => .fault e
  | .refused r => .refused r

/-- A port value is known. -/
def Pin.isKnown {α : Type} : Pin α → Bool
  | .known _ => true
  | .unknown => false

/-- Two edges' inputs with the same control: they differ in the value of the block operand at most. -/
def SameControl (p q : PortInput) : Prop :=
  p.rst = q.rst ∧ p.cmdValid = q.cmdValid ∧ p.cmdOp = q.cmdOp ∧ Pin.isKnown p.blkData = Pin.isKnown q.blkData

/-- Every port value of an edge's inputs is known. -/
def AllKnown (p : PortInput) : Prop :=
  p.rst ≠ .unknown ∧ p.cmdValid ≠ .unknown ∧ p.cmdOp ≠ .unknown ∧ p.blkData ≠ .unknown

/-- The host drives `rst = 0` at every edge of a list of inputs. -/
def NoReset (ps : List PortInput) : Prop := ∀ p ∈ ps, p.rst = .known false

end Sys2Proof.Machine
end

