-- ==== Sys2Proof/Certificates/Slice0/Obligations.lean ====
section
/-!
DEFINITION. The statements for the provers, each about all states or operands it names. A docstring names the rule of
the spec it formalises, and the assumption log where a clause is the model's choice.
-/

open Sys2Proof Sys2Proof.Machine

/-! ### Reset -/

/-- R290, R292: the state after reset and the outputs it gives. The values of IV are R165's. That `V` and `Wwin` count
as unwritten is R290's; the words they hold are the model's choice (notes/assumptions/1.md) and are not stated. -/
def Obligations.ResetStateIsAsSpecified : Prop :=
  State.reset.H = iv ∧ State.reset.t = 0 ∧ State.reset.fsm = .idle ∧ State.reset.dv = false ∧
  State.reset.err = false ∧ (∀ i : Fin 8, State.reset.vWritten[i] = false) ∧
  (∀ j : Fin 16, State.reset.wwinWritten[j] = false) ∧
  cmdReady State.reset = true ∧ busy State.reset = false ∧ status State.reset = 0b000#3 ∧
  digest State.reset = digestOfWords iv

/-- R290: a reset edge, whatever the state and the other inputs. -/
def Obligations.ResetEdgeGivesTheResetState : Prop :=
  ∀ (s : State) (p : PortInput) (rest : List PortInput),
    s.inputs = p :: rest → p.rst = .known true →
    step s = .next { State.reset with V := s.V, Wwin := s.Wwin, inputs := rest }

/-- R291: while `rst` stays 1 every edge re-applies the reset rule, and one edge is enough. -/
def Obligations.HeldResetStaysInTheResetState : Prop :=
  ∀ (s : State) (ps rest : List PortInput),
    s.inputs = ps ++ rest → ps ≠ [] → (∀ p ∈ ps, p.rst = .known true) →
    Host.Core.run core ps.length s = .next { State.reset with V := s.V, Wwin := s.Wwin, inputs := rest }

/-! ### Commands -/

/-- R220: INIT in IDLE, its code, its status, and INIT right after reset. -/
def Obligations.InitLoadsTheInitialHashValue : Prop :=
  (∀ blk : Pin Block, decodePorts (.known 0b00#2) blk = .ok .init) ∧
  (∀ s : State, s.fsm = .idle →
    exec .init s = .next { s with H := iv, dv := false } ∧
    busy { s with H := iv, dv := false } = false ∧ cmdReady { s with H := iv, dv := false } = true) ∧
  exec .init State.reset = .next State.reset

/-- The acceptance edge of BLOCK (45_controller.md section 2): the working registers from `H`, the window from the
block port, the counter, the controller and `dv`, and nothing else. -/
def Obligations.BlockAcceptanceStartsFromTheDigestState : Prop :=
  ∀ (s : State) (b : Block), s.fsm = .idle →
    exec (.block b) s = .next
      { s with
        V := s.H, vWritten := Vector.replicate 8 true,
        Wwin := Vector.ofFn fun j : Fin 16 => b.extractLsb' (960 - 64 * j.val) 64,
        wwinWritten := Vector.replicate 16 true, t := 0, fsm := .round, dv := false }

/-- The acceptance edge of INIT_BLOCK (45_controller.md section 2). -/
def Obligations.InitBlockAcceptanceStartsFromTheInitialHashValue : Prop :=
  ∀ (s : State) (b : Block), s.fsm = .idle →
    exec (.initBlock b) s = .next
      { s with
        H := iv, V := iv, vWritten := Vector.replicate 8 true,
        Wwin := Vector.ofFn fun j : Fin 16 => b.extractLsb' (960 - 64 * j.val) 64,
        wwinWritten := Vector.replicate 16 true, t := 0, fsm := .round, dv := false }

/-- R228: the reserved command in IDLE sets `err` and writes no other register; issued again it changes nothing. -/
def Obligations.ReservedSetsErrAndNothingElse : Prop :=
  (∀ blk : Pin Block, decodePorts (.known 0b11#2) blk = .ok .reserved) ∧
  (∀ s : State, s.fsm = .idle → exec .reserved s = .next { s with err := true }) ∧
  (∀ s : State, s.fsm = .idle → s.err = true → exec .reserved s = .next s) ∧
  (∀ s : State, (status { s with err := true })[2] = true)

/-- R226's corner cases: INIT_BLOCK is INIT followed by BLOCK with the same block, and it does not depend on `H`. -/
def Obligations.InitBlockIsInitThenBlock : Prop :=
  (∀ (s u : State) (b : Block), s.fsm = .idle → exec .init s = .next u → exec (.block b) u = exec (.initBlock b) s) ∧
  (∀ (s : State) (b : Block) (h : Vector Word 8), s.fsm = .idle →
    exec (.initBlock b) { s with H := h } = exec (.initBlock b) s)

/-- R212, R214, R237: a step with `rst = 0` and a command offered is exec of the command the ports decode to, on the
state whose inputs have moved on by one edge. In IDLE that accepts and runs the command (R212); in every other state the
command is not accepted (R214), and that exec is then the busy edge is the model's reading (notes/assumptions/12.md). -/
def Obligations.StepRunsTheOfferedCommand : Prop :=
  ∀ (s : State) (p : PortInput) (rest : List PortInput) (i : Instr),
    s.inputs = p :: rest → p.rst = .known false → p.cmdValid = .known true →
    decodePorts p.cmdOp p.blkData = .ok i → i.wf = true →
    step s = exec i { s with inputs := rest }

/-- The frame of every command: what an edge at which it is offered leaves unchanged, by the controller state
(45_controller.md sections 2 and 3). The inputs are never touched by a meaning, and `err` only by the reserved command. -/
def Obligations.CommandsLeaveOtherRegistersUnchanged : Prop :=
  ∀ (i : Instr) (s u : State), exec i s = .next u →
    u.inputs = s.inputs ∧
    (s.fsm = .idle →
      (i = .init → u = { s with H := u.H, dv := u.dv }) ∧
      (i = .reserved → u = { s with err := u.err }) ∧
      (∀ b, i = .block b → u.H = s.H ∧ u.err = s.err) ∧
      (∀ b, i = .initBlock b → u.err = s.err)) ∧
    (s.fsm = .round → u.H = s.H ∧ u.dv = s.dv ∧ u.err = s.err) ∧
    (s.fsm = .feed → u = { s with H := u.H, dv := u.dv, fsm := u.fsm })

/-! ### Edges -/

/-- R192 and R231 (with the window shift of R148): a ROUND edge, every register, from the values before the edge. That
`Wwin[15]` takes R147's value at `t` from 64 to 79 is the model's choice, which R150 allows (notes/assumptions/7.md). -/
def Obligations.RoundEdgeRunsOneRound : Prop :=
  ∀ (s : State) (p : PortInput) (rest : List PortInput) (T1 T2 : Word),
    s.Legal → s.fsm = .round → s.inputs = p :: rest → p.rst = .known false →
    T1 = s.V[7] + bigSigma1 s.V[4] + ch s.V[4] s.V[5] s.V[6] + kConst s.t.toNat + s.Wwin[0] →
    T2 = bigSigma0 s.V[0] + maj s.V[0] s.V[1] s.V[2] →
    ∃ u, step s = .next u ∧
      u.V = #v[T1 + T2, s.V[0], s.V[1], s.V[2], s.V[3] + T1, s.V[4], s.V[5], s.V[6]] ∧
      (∀ (j : Nat) (hj : j < 15), u.Wwin[j] = s.Wwin[j + 1]) ∧
      u.Wwin[15] = s.Wwin[0] + sigma0 s.Wwin[1] + s.Wwin[9] + sigma1 s.Wwin[14] ∧
      (s.t.toNat = 79 → u.t = 0 ∧ u.fsm = .feed) ∧
      (s.t.toNat ≠ 79 → u.t.toNat = s.t.toNat + 1 ∧ u.fsm = .round) ∧
      u.vWritten = s.vWritten ∧ u.wwinWritten = s.wwinWritten ∧
      u.H = s.H ∧ u.dv = s.dv ∧ u.err = s.err ∧ u.inputs = rest

/-- R195 and R233: a FEED edge adds the working registers into `H`, sets `dv` and returns to IDLE; `V`, `Wwin`, `t` and
`err` are not written. -/
def Obligations.FeedEdgeAddsTheWorkingRegisters : Prop :=
  ∀ (s : State) (p : PortInput) (rest : List PortInput),
    s.Legal → s.fsm = .feed → s.inputs = p :: rest → p.rst = .known false →
    ∃ u, step s = .next u ∧ (∀ i : Fin 8, u.H[i] = s.H[i] + s.V[i]) ∧ u.t = 0 ∧
      u = { s with H := u.H, dv := true, fsm := .idle, inputs := rest }

/-- R213: in IDLE with no command nothing changes. -/
def Obligations.IdleEdgeWithoutCommandHolds : Prop :=
  ∀ (s : State) (p : PortInput) (rest : List PortInput),
    s.fsm = .idle → s.inputs = p :: rest → p.rst = .known false → p.cmdValid = .known false →
    step s = .next { s with inputs := rest }

/-- R214: while the controller is not in IDLE the command ports have no effect; nothing is queued. The clause on exec
is the model's reading of a command offered there (notes/assumptions/12.md). -/
def Obligations.OffersWhileBusyHaveNoEffect : Prop :=
  ∀ (s : State) (p q : PortInput) (rest : List PortInput),
    s.fsm ≠ .idle → p.rst = .known false → q.rst = .known false →
    step { s with inputs := p :: rest } = step { s with inputs := q :: rest } ∧
    ∀ i : Instr, exec i s = quietEdge s

/-- R74: `cmd_op` and `blk_data` have no effect at an edge that accepts no command, nor `blk_data` at an edge that
accepts INIT or the reserved code. -/
def Obligations.UntakenInputsHaveNoEffect : Prop :=
  ∀ (s : State) (p q : PortInput) (rest : List PortInput),
    p.rst = q.rst → p.cmdValid = q.cmdValid →
    (p.rst = .known false → p.cmdValid = .known true → s.fsm = .idle →
      p.cmdOp = q.cmdOp ∧ (p.cmdOp = .known 0b00#2 ∨ p.cmdOp = .known 0b11#2 ∨ p.blkData = q.blkData)) →
    step { s with inputs := p :: rest } = step { s with inputs := q :: rest }

/-- R83: a step is refused exactly where an unknown value is taken. -/
def Obligations.UnknownInputsRefuseExactlyWhereTaken : Prop :=
  ∀ (s : State) (p : PortInput) (rest : List PortInput), s.inputs = p :: rest →
    ((∃ r, step s = .refused r) ↔
      p.rst = .unknown ∨
      (p.rst = .known false ∧ s.fsm = .idle ∧
        (p.cmdValid = .unknown ∨
          (p.cmdValid = .known true ∧
            (p.cmdOp = .unknown ∨
              ((p.cmdOp = .known 0b01#2 ∨ p.cmdOp = .known 0b10#2) ∧ p.blkData = .unknown))))))

/-! ### What writes the digest state and the status bits -/

/-- R21: the four writers of `H`, what each writes, and that every other step leaves all eight words alone. -/
def Obligations.DigestStateHasFourWriters : Prop :=
  ∀ s u : State, step s = .next u →
    ((nextInput s).rst = .known true → u.H = iv) ∧
    (acceptedCommand s = some .init → u.H = iv) ∧
    (∀ b, acceptedCommand s = some (.initBlock b) → u.H = iv) ∧
    ((nextInput s).rst = .known false → s.fsm = .feed → ∀ i : Fin 8, u.H[i] = s.H[i] + s.V[i]) ∧
    ((nextInput s).rst = .known false → s.fsm ≠ .feed → acceptedCommand s ≠ some .init →
      (∀ b, acceptedCommand s ≠ some (.initBlock b)) → u.H = s.H)

/-- R37: what sets and clears `err`, and that it has no effect on anything else. -/
def Obligations.ErrIsStickyAndInert : Prop :=
  (∀ s u : State, step s = .next u →
    (u.err = true ↔ (nextInput s).rst = .known false ∧ (s.err = true ∨ acceptedCommand s = some .reserved))) ∧
  (∀ (s : State) (e : Bool),
    mapNext (fun u => { u with err := false }) (step { s with err := e }) =
      mapNext (fun u => { u with err := false }) (step s))

/-- R36's set and clear events for `dv`. -/
def Obligations.DigestValidIsSetByFeedOnly : Prop :=
  ∀ s u : State, step s = .next u →
    (u.dv = true ↔
      (nextInput s).rst = .known false ∧
        (s.fsm = .feed ∨ (s.dv = true ∧ (acceptedCommand s = none ∨ acceptedCommand s = some .reserved))))

/-- R26, R29, R55 and 93_implementation_defined.md: where a step faults. -/
def Obligations.StepFaultsExactlyOnUnreadableState : Prop :=
  ∀ s : State, Faults (step s) ↔
    (nextInput s).rst = .known false ∧
      (s.fsm = .unused ∨
       (s.fsm = .feed ∧ ∃ i : Fin 8, s.vWritten[i] = false) ∨
       (s.fsm = .round ∧
        ((∃ i : Fin 8, s.vWritten[i] = false) ∨ (∃ j : Fin 16, s.wwinWritten[j] = false) ∨ 79 < s.t.toNat)))

/-! ### Invariants -/

/-- R34 at reset. -/
def Obligations.ResetStateIsLegal : Prop := State.reset.Legal

/-- R34: every step keeps the invariant of the reachable states. -/
def Obligations.EveryStepKeepsTheStateLegal : Prop :=
  ∀ s u : State, s.Legal → step s = .next u → u.Legal

/-- R270: from a legal state no run ends in a fault, and with known inputs every run goes on. -/
def Obligations.LegalStatesNeverFault : Prop :=
  ∀ s : State, s.Legal →
    (∀ n, ¬ Faults (Host.Core.run core n s)) ∧
    ((∀ p ∈ s.inputs, AllKnown p) → ∀ n, ∃ u : State, Host.Core.run core n s = .next u ∧ u.Legal)

/-! ### One block -/

/-- R149, R193, R194: the registers during a block, `k` ROUND edges after the edge that accepts it. -/
def Obligations.RegistersDuringABlock : Prop :=
  ∀ (s : State) (b : Block) (h : Vector Word 8) (k : Nat),
    StartsBlock s b h → k ≤ 79 → NoReset (s.inputs.tail.take k) →
    ∃ u : State, Host.Core.run core (k + 1) s = .next u ∧ u.fsm = .round ∧ u.t.toNat = k ∧
      u.V = workAfter h (schedule b) k ∧
      (∀ j : Fin 16, k + j.val ≤ 79 → u.Wwin[j] = wordAt (schedule b) (k + j.val)) ∧
      u.H = h ∧ u.dv = false ∧ u.err = s.err ∧ u.inputs = s.inputs.drop (k + 1)

/-- R196, R234: after 81 more edges without reset `H` is the normative per-block function of the state before the block
and the block, and the block is ready for the next command. -/
def Obligations.BlockCompressesTheDigestState : Prop :=
  ∀ (s : State) (b : Block) (h : Vector Word 8),
    StartsBlock s b h → NoReset (s.inputs.tail.take Config.blockLatency) →
    (∀ k, k < Config.blockLatency → ∃ u : State, Host.Core.run core (k + 1) s = .next u ∧ busy u = true ∧ u.H = h ∧ u.dv = false) ∧
    ∃ u : State, Host.Core.run core (Config.blockLatency + 1) s = .next u ∧ u.H = compress h (schedule b) ∧
      u.dv = true ∧ u.fsm = .idle ∧ u.t = 0 ∧ cmdReady u = true ∧ u.err = s.err ∧
      u.inputs = s.inputs.drop (Config.blockLatency + 1)

/-- R284: how long the block is busy does not depend on data: two legal states with the same controller state, under
inputs that differ in the blocks' values only, have the same controller state after any number of edges. -/
def Obligations.TimingIsIndependentOfData : Prop :=
  ∀ s s' : State, s.Legal → s'.Legal → s.fsm = s'.fsm → s.t = s'.t → List.Forall₂ SameControl s.inputs s'.inputs →
    ∀ (n : Nat) (u : State), Host.Core.run core n s = .next u →
      ∃ u' : State, Host.Core.run core n s' = .next u' ∧ u.fsm = u'.fsm ∧ u.t = u'.t

/-- R197, R145, R27: what an earlier block left in the working registers, the window and the counter is invisible: two
idle states that differ in nothing else show the same outputs after any number of edges. -/
def Obligations.EarlierScratchIsInvisible : Prop :=
  ∀ s s' : State, s.fsm = .idle → s'.fsm = .idle → s.H = s'.H → s.dv = s'.dv → s.err = s'.err → s.inputs = s'.inputs →
    ∀ n, observe (Host.Core.run core n s) = observe (Host.Core.run core n s')

/-! ### Encoding -/

/-- R75: the opcode map, complete. -/
def Obligations.OpcodeMapIsComplete : Prop :=
  (∀ b : Block,
    decodePorts (.known 0b00#2) (.known b) = .ok .init ∧ decodePorts (.known 0b01#2) (.known b) = .ok (.block b) ∧
    decodePorts (.known 0b10#2) (.known b) = .ok (.initBlock b) ∧
    decodePorts (.known 0b11#2) (.known b) = .ok .reserved) ∧
  (∀ (op : Op) (b : Block), ∃ i, decodePorts (.known op) (.known b) = .ok i ∧ encodeOp i = op)

/-- Decoding the byte image of a command gives the command and the bytes after it, for every command and every block
value (30_encoding.md sections 2 and 3; the image is the model's serialisation, notes/assumptions/5.md). -/
def Obligations.CommandImageRoundTrip : Prop :=
  ∀ (i : Instr) (rest : List Byte), i.wf = true → decodeImage (encodeImage i ++ rest) = .ok (i, rest)

/-- The bytes that decode to a command are its image, up to the block bytes of a command that takes no block. -/
def Obligations.DecodedImageIsTheCommandsImage : Prop :=
  ∀ (bytes rest : List Byte) (i : Instr), decodeImage bytes = .ok (i, rest) →
    ∃ blk : List Byte, blk.length = 128 ∧ bytes = (encodeOp i).setWidth 8 :: (blk ++ rest) ∧
      (∀ b, encodeBlk i = .known b → blk = bytesOfBlock b)

/-- Four command words written out from R75, with the block of zeros, as spec/opcode_table.json numbers them. -/
def Obligations.TableWordsDecode : Prop :=
  decodeTableWord 8 0b00000000 = some .init ∧ decodeTableWord 8 0b00000001 = some (.block 0) ∧
  decodeTableWord 8 0b00000010 = some (.initBlock 0) ∧ decodeTableWord 8 0b00000011 = some .reserved

/-- R142, R77: message word `t` is bytes `8t` to `8t+7`, the most significant first. -/
def Obligations.MessageWordsAreBigEndian : Prop :=
  ∀ (bs : List Byte) (hl : bs.length = 128) (t : Fin 16),
    blockWord (blockOfBytes bs) t =
      bs[8 * t.val] ++ bs[8 * t.val + 1] ++ bs[8 * t.val + 2] ++ bs[8 * t.val + 3] ++
      bs[8 * t.val + 4] ++ bs[8 * t.val + 5] ++ bs[8 * t.val + 6] ++ bs[8 * t.val + 7] ∧
    blockWord (blockOfBytes bs) t = (blockOfBytes bs).extractLsb' (960 - 64 * t.val) 64 ∧
    wordAt (schedule (blockOfBytes bs)) t = blockWord (blockOfBytes bs) t

/-- R143: the schedule has 80 words and meets the recurrence. -/
def Obligations.ScheduleMeetsTheRecurrence : Prop :=
  ∀ b : Block, (schedule b).length = 80 ∧
    ∀ i, 16 ≤ i → i < 80 →
      wordAt (schedule b) i =
        wordAt (schedule b) (i - 16) + sigma0 (wordAt (schedule b) (i - 15)) + wordAt (schedule b) (i - 7) +
          sigma1 (wordAt (schedule b) (i - 2))

/-! ### Bit-level functions -/

/-- R100: rotation bit by bit, as a shift-or for the amounts 1..63, its corner cases and example, and R101's extension to every
amount. -/
def Obligations.RotrMovesEveryBit : Prop :=
  (∀ (x : Word) (n i : Nat), i < 64 → (rotr x n).getLsbD i = x.getLsbD ((i + n) % 64)) ∧
  (∀ (x : Word) (n : Nat), 1 ≤ n → n ≤ 63 → rotr x n = (x >>> n) ||| (x <<< (64 - n))) ∧
  (∀ n, rotr 0 n = 0 ∧ rotr 0xFFFFFFFFFFFFFFFF n = 0xFFFFFFFFFFFFFFFF) ∧
  (∀ (x : Word) (n : Nat), (List.range 64).countP (rotr x n).getLsbD = (List.range 64).countP x.getLsbD) ∧
  rotr 0x0123456789ABCDEF 1 = 0x8091A2B3C4D5E6F7 ∧
  (∀ (x : Word) (n : Nat), rotr x n = rotr x (n % 64)) ∧ (∀ x : Word, rotr x 0 = x)

/-- R102: the logical right shift bit by bit, its corner cases and example. -/
def Obligations.ShrIsALogicalShift : Prop :=
  (∀ (x : Word) (n i : Nat), i < 64 → (shr x n).getLsbD i = if i + n ≤ 63 then x.getLsbD (i + n) else false) ∧
  shr 0xFFFFFFFFFFFFFFFF 7 = 0x01FFFFFFFFFFFFFF ∧ shr 1 7 = 0 ∧ shr 0x8000000000000000 7 = 0x0100000000000000 ∧
  shr 0x0123456789ABCDEF 7 = 0x0002468ACF13579B

/-- R140, R141: the schedule mixing functions bit by bit, their corner cases and examples. -/
def Obligations.ScheduleMixingBits : Prop :=
  (∀ (x : Word) (i : Nat), i < 64 →
    (sigma0 x).getLsbD i =
      ((x.getLsbD ((i + 1) % 64) ^^ x.getLsbD ((i + 8) % 64)) ^^ (decide (i + 7 ≤ 63) && x.getLsbD (i + 7)))) ∧
  (∀ (x : Word) (i : Nat), i < 64 →
    (sigma1 x).getLsbD i =
      ((x.getLsbD ((i + 19) % 64) ^^ x.getLsbD ((i + 61) % 64)) ^^ (decide (i + 6 ≤ 63) && x.getLsbD (i + 6)))) ∧
  sigma0 0 = 0 ∧ sigma0 0xFFFFFFFFFFFFFFFF = 0x01FFFFFFFFFFFFFF ∧ sigma0 1 = 0x8100000000000000 ∧
  sigma0 0x8000000000000000 = 0x4180000000000000 ∧ sigma0 0x0123456789ABCDEF = 0x6F92C77C6C4F1AA1 ∧
  (rotr 1 1 ^^^ rotr 1 8 ^^^ rotr 1 7) = 0x8300000000000000 ∧
  sigma1 0 = 0 ∧ sigma1 0xFFFFFFFFFFFFFFFF = 0x03FFFFFFFFFFFFFF ∧ sigma1 1 = 0x0000200000000008 ∧
  sigma1 0x8000000000000000 = 0x0200100000000004 ∧ sigma1 0x0123456789ABCDEF = 0x70A3460DBBD4317A

/-- R180, R181: the compression mixing functions bit by bit, their corner cases and examples. -/
def Obligations.CompressionMixingBits : Prop :=
  (∀ (x : Word) (i : Nat), i < 64 →
    (bigSigma0 x).getLsbD i =
      ((x.getLsbD ((i + 28) % 64) ^^ x.getLsbD ((i + 34) % 64)) ^^ x.getLsbD ((i + 39) % 64))) ∧
  (∀ (x : Word) (i : Nat), i < 64 →
    (bigSigma1 x).getLsbD i =
      ((x.getLsbD ((i + 14) % 64) ^^ x.getLsbD ((i + 18) % 64)) ^^ x.getLsbD ((i + 41) % 64))) ∧
  bigSigma0 0 = 0 ∧ bigSigma0 0xFFFFFFFFFFFFFFFF = 0xFFFFFFFFFFFFFFFF ∧ bigSigma0 1 = 0x0000001042000000 ∧
  bigSigma0 0x8000000000000000 = 0x0000000821000000 ∧ bigSigma0 0x0123456789ABCDEF = 0xB7C57A100C7EC1AB ∧
  bigSigma1 0 = 0 ∧ bigSigma1 0xFFFFFFFFFFFFFFFF = 0xFFFFFFFFFFFFFFFF ∧ bigSigma1 1 = 0x0004400000800000 ∧
  bigSigma1 0x8000000000000000 = 0x0002200000400000 ∧ bigSigma1 0x0123456789ABCDEF = 0x7703112333475567

/-- R182, R183: choose and majority bit by bit, their corner cases and examples. -/
def Obligations.ChooseAndMajorityBits : Prop :=
  (∀ (e f g : Word) (i : Nat), i < 64 → (ch e f g).getLsbD i = if e.getLsbD i then f.getLsbD i else g.getLsbD i) ∧
  (∀ (a b c : Word) (i : Nat), i < 64 →
    ((maj a b c).getLsbD i = true ↔ 2 ≤ (a.getLsbD i).toNat + (b.getLsbD i).toNat + (c.getLsbD i).toNat)) ∧
  (∀ f g : Word, ch 0xFFFFFFFFFFFFFFFF f g = f ∧ ch 0 f g = g) ∧ (∀ e f : Word, ch e f f = f) ∧
  ch 0xFF00FF00FF00FF00 0x1111111111111111 0x2222222222222222 = 0x1122112211221122 ∧
  (∀ c x : Word, maj 0xFFFFFFFFFFFFFFFF 0 c = c ∧ maj x x c = x) ∧
  maj 0xFFFFFFFFFFFFFFFF 0xFFFFFFFFFFFFFFFF 0 = 0xFFFFFFFFFFFFFFFF ∧
  maj 0xF0F0F0F0F0F0F0F0 0xFF00FF00FF00FF00 0xFFFF0000FFFF0000 = 0xFFF0F000FFF0F000

/-- R184, R185, R104: the temporaries are sums modulo 2^64 of the words read as unsigned integers. -/
def Obligations.TemporariesAreModularSums : Prop :=
  ∀ (v : Vector Word 8) (k w : Word),
    (temp1 v k w).toNat =
      (v[7].toNat + (bigSigma1 v[4]).toNat + (ch v[4] v[5] v[6]).toNat + k.toNat + w.toNat) % 2 ^ 64 ∧
    (temp2 v).toNat = ((bigSigma0 v[0]).toNat + (maj v[0] v[1] v[2]).toNat) % 2 ^ 64

/-- R162, R166: the tables hold the first 64 bits of the fractional parts of the cube and square roots of the first
primes. -/
def Obligations.TablesAreRootsOfPrimes : Prop :=
  kTable.length = 80 ∧
  (∀ i : Fin 80, ∃ n : Nat, n ^ 3 ≤ Nat.nth Nat.Prime i * 2 ^ 192 ∧ Nat.nth Nat.Prime i * 2 ^ 192 < (n + 1) ^ 3 ∧
    (kConst i).toNat = n % 2 ^ 64) ∧
  (∀ i : Fin 8, ∃ n : Nat, n ^ 2 ≤ Nat.nth Nat.Prime i * 2 ^ 128 ∧ Nat.nth Nat.Prime i * 2 ^ 128 < (n + 1) ^ 2 ∧
    iv[i].toNat = n % 2 ^ 64)

/-! ### Outputs -/

/-- R72, R81: `cmd_ready` and the status bits. -/
def Obligations.ReadyAndStatusBits : Prop :=
  ∀ s : State, (cmdReady s = true ↔ s.fsm = .idle) ∧ (status s)[2] = s.err ∧ (status s)[1] = s.dv ∧
    ((status s)[0] = true ↔ s.fsm ≠ .idle) ∧ cmdReady s = !(status s)[0]

/-- R80, R51: the digest port's words and bytes. -/
def Obligations.DigestPortShowsTheDigestState : Prop :=
  ∀ s : State,
    (∀ i : Fin 8, (digest s).extractLsb' (448 - 64 * i.val) 64 = s.H[i]) ∧
    (∀ k : Fin 64, (digest s).extractLsb' (504 - 8 * k.val) 8 = s.H[k.val / 8].extractLsb' (56 - 8 * (k.val % 8)) 8)

/-! ### The host side -/

/-- R127, R124: the length of the padded buffer. -/
def Obligations.PaddedLengthIsTheSmallestWholeNumberOfBlocks : Prop :=
  ∀ m : List Byte,
    0 < (pad m).length ∧ (pad m).length % 128 = 0 ∧ m.length < (pad m).length ∧
    (pad m).length / 128 = (m.length + 17 + 127) / 128 ∧ 1 ≤ (pad m).length / 128 ∧
    m.length + 1 + 16 ≤ (pad m).length ∧
    (∀ k, m.length + 1 + 16 ≤ 128 * k → (pad m).length ≤ 128 * k)

/-- R122, R123: what the padded buffer holds at each place. -/
def Obligations.PaddedBufferContents : Prop :=
  ∀ m : List Byte, lengthInDomain m.length = true →
    (pad m).take m.length = m ∧ (pad m)[m.length]? = some 0x80 ∧
    (∀ j, m.length + 1 ≤ j → j < m.length + 1 + zeroBytes m.length → (pad m)[j]? = some 0x00) ∧
    (pad m).length = m.length + 1 + zeroBytes m.length + 16 ∧
    (∀ k < 16, (pad m)[m.length + 1 + zeroBytes m.length + k]? =
      some (BitVec.ofNat 8 (8 * m.length / 256 ^ (15 - k)))) ∧
    (List.range 16).foldl (fun acc k => 256 * acc + ((pad m)[m.length + 1 + zeroBytes m.length + k]?.getD 0).toNat) 0
      = 8 * m.length

/-- R130: the blocks of a padded buffer, in order, are the buffer. -/
def Obligations.BlocksOfAPaddedBufferAreTheBuffer : Prop :=
  ∀ m : List Byte, (blocksOf (pad m)).flatMap bytesOfBlock = pad m ∧
    (blocksOf (pad m)).length = (pad m).length / 128

/-- R128: a message too long for the trailer is refused before any command, by HASH and by `pad("<text>")[k]`. -/
def Obligations.TooLongMessagesAreRefused : Prop :=
  ∀ (m : List Byte) (s : State) (rest : List HostLine), 2 ^ 125 ≤ m.length →
    hashLines m = .error .lengthOutOfDomain ∧
    hostMove (hostStart s (.hash m :: rest)) = .refused .lengthOutOfDomain ∧
    ∀ (operand after : List Char) (k : Nat) (command : Block → Instr),
      quotedText operand = some (m, after) → blockIndex after = some k →
      blockLine command ('p' :: 'a' :: 'd' :: '(' :: operand) = .error .lengthOutOfDomain

/-- R253, R254: the rendering of the digest. -/
def Obligations.HexDigestFormat : Prop :=
  ∀ h : Vector Word 8,
    (hexDigest h).length = 128 ∧ (∀ c ∈ hexDigest h, c ∈ hexDigits) ∧
    (∀ (i : Fin 8) (j : Fin 16), (hexDigest h)[16 * i.val + j.val]? =
      hexDigits[(h[i].extractLsb' (60 - 4 * j.val) 4).toNat]?) ∧
    hexWord 0x0000000000000018 = List.replicate 14 '0' ++ ['1', '8']

/-- R84: a command line is carried out: from a legal state the host keeps offering the command for at most 81 edges, the
block is then idle, and the next edge is the command's meaning on the state the block has come to (`q`). -/
def Obligations.HostCommandIsAcceptedInTime : Prop :=
  ∀ (s : State) (i : Instr) (rest : List HostLine), s.Legal →
    ∃ (n : Nat) (q r : HostRun), n ≤ 81 ∧
      hostMoves n (hostStart s (.command i :: rest)) = .next q ∧ q.todo = .command i :: rest ∧ q.edges = n ∧
      q.block.fsm = .idle ∧
      hostMoves (n + 1) (hostStart s (.command i :: rest)) = .next r ∧ r.todo = rest ∧ r.edges = n + 1 ∧
      exec i q.block = .next r.block

/-- R250, R252, R304: the digest procedure, from an idle state: the one sample it takes is the message's digest with
`digest_valid` 1 and `busy` 0, 82 edges a block after its start. -/
def Obligations.HashReadsTheMessageDigest : Prop :=
  ∀ (m : List Byte) (s : State), lengthInDomain m.length = true → s.fsm = .idle →
    ∃ (n : Nat) (r : HostRun), hostMoves n (hostStart s [.hash m]) = .next r ∧ r.todo = [] ∧
      r.seen = [⟨digestOfWords (messageDigest m), BitVec.ofBool s.err ++ 0b10#2⟩] ∧
      r.edges = 82 * ((m.length + 17 + 127) / 128) ∧ r.block.H = messageDigest m

/-- R84: `BLOCK` and `INIT_BLOCK` with the 256 hex digits of a block, byte 0 first, stand for the command with that
block. -/
def Obligations.HexBlockLinesAssemble : Prop :=
  ∀ b : Block,
    assembleLine (['B', 'L', 'O', 'C', 'K', ' '] ++
        (bytesOfBlock b).flatMap fun x => [hexDigit (x.extractLsb' 4 4), hexDigit (x.extractLsb' 0 4)]) =
      .ok (some (.command (.block b))) ∧
    assembleLine (['I', 'N', 'I', 'T', '_', 'B', 'L', 'O', 'C', 'K', ' '] ++
        (bytesOfBlock b).flatMap fun x => [hexDigit (x.extractLsb' 4 4), hexDigit (x.extractLsb' 0 4)]) =
      .ok (some (.command (.initBlock b)))

/-- R250, R253, R80: what the host renders from the digest port is the rendering of the words of `H`, and the procedure
returns it exactly where it read `digest_valid = 1`. That it refuses elsewhere is the model's reading of `require`
(notes/assumptions/15.md). -/
def Obligations.PortRenderingIsTheWordsRendering : Prop :=
  (∀ h : Vector Word 8, wordsOfDigest (digestOfWords h) = h) ∧
  ∀ s : State,
    hexPort (digest s) = hexDigest s.H ∧
    (s.dv = true → returnHex (readout s) = .ok (hexDigest s.H)) ∧
    (s.dv = false → returnHex (readout s) = .error .digestNotValid)

/-- R250, R256: the digest procedure ends from every legal state, a block in progress or not: it returns nothing for a
while and then the hex digest of the message. -/
def Obligations.DigestProcedureReturnsTheHexDigest : Prop :=
  ∀ (m : List Byte) (s : State), lengthInDomain m.length = true → s.Legal →
    ∃ n, n ≤ 82 * ((m.length + 17 + 127) / 128) + 84 ∧
      ∀ k, digestAfter k m s = .next (if k < n then none else some (hexDigest (messageDigest m)))

/-- R26, R29: the faults on unwritten entries are unreachable: after a reset edge no run faults, whatever the host does
and whatever the scratch registers hold. -/
def Obligations.NoRunAfterResetFaults : Prop :=
  ∀ (s : State) (ps : List PortInput) (n : Nat), ¬ Faults (Host.Core.run core n { resetEdge s with inputs := ps })
end

