-- ==== Sys2Proof/Laws/Blocks.lean ====
section
/-!
SUPPORT. A block as bytes and as words, and the words of a schedule: one lemma per function that builds them.
-/
namespace Sys2Proof.Machine

/-- One more byte at the end of a block. -/
theorem blockOfBytes_append (bs : List Byte) (x : Byte) :
    blockOfBytes (bs ++ [x]) = (blockOfBytes bs <<< 8) ||| x.setWidth 1024 := by
  simp [blockOfBytes, List.foldl_append]

/-- A bit of a block, from the byte that holds it. -/
theorem blockOfBytes_bit (bs : List Byte) (hl : bs.length ≤ 128) (i : Nat) (hi : i < 8 * bs.length) :
    (blockOfBytes bs).getLsbD i = (bs.getD (bs.length - 1 - i / 8) 0).getLsbD (i % 8) := by
  induction bs using List.reverseRecOn generalizing i with
  | nil => simp at hi
  | append_singleton bs x ih =>
    simp only [List.length_append, List.length_singleton] at hl hi ⊢
    rw [blockOfBytes_append, BitVec.getLsbD_or, BitVec.getLsbD_shiftLeft, BitVec.getLsbD_setWidth]
    by_cases h : i < 8
    · have e0 : i / 8 = 0 := by omega
      have e1 : i % 8 = i := by omega
      have : i < 1024 := by omega
      simp [h, e0, e1, this]
    · have h2 : bs.length + 1 - 1 - i / 8 < bs.length := by omega
      rw [List.getD_append _ _ _ _ h2]
      have h3 : x.getLsbD i = false := BitVec.getLsbD_of_ge _ _ (by omega)
      have : i < 1024 := by omega
      rw [h3, ih (by omega) (i - 8) (by omega)]
      have e1 : (i - 8) % 8 = i % 8 := by omega
      have e2 : bs.length - 1 - (i - 8) / 8 = bs.length + 1 - 1 - i / 8 := by omega
      simp only [e1, e2, h, this]; simp

/-- Byte `j` of the block of 128 bytes is byte `j`. -/
theorem blockByte_blockOfBytes (bs : List Byte) (hl : bs.length = 128) (j : Nat) (hj : j < 128) :
   blockByte (blockOfBytes bs) j = bs[j] := by
  apply BitVec.eq_of_getLsbD_eq
  intro i hi
  rw [blockByte, BitVec.getLsbD_extractLsb']
  rw [blockOfBytes_bit bs (by omega) _ (by omega)]
  have e1 : (1016 - 8 * j + i) % 8 = i := by omega
  have e2 : bs.length - 1 - (1016 - 8 * j + i) / 8 = j := by omega
  rw [e1, e2, List.getD_eq_getElem _ _ (by omega)]
  simp [hi]

/-- The bytes of the block of 128 bytes are those bytes. -/
theorem bytesOfBlock_blockOfBytes (bs : List Byte) (hl : bs.length = 128) : bytesOfBlock (blockOfBytes bs) = bs := by
  apply List.ext_getElem
  · simp [bytesOfBlock, hl]
  · intro j h1 h2
    simp [bytesOfBlock, blockByte_blockOfBytes bs hl j (by omega)]

/-- A block has 128 bytes. -/
theorem bytesOfBlock_length (b : Block) : (bytesOfBlock b).length = 128 := by simp [bytesOfBlock]

/-- The block of a block's bytes is the block. -/
theorem blockOfBytes_bytesOfBlock (b : Block) : blockOfBytes (bytesOfBlock b) = b := by
  apply BitVec.eq_of_getLsbD_eq
  intro i hi
  rw [blockOfBytes_bit _ (by simp [bytesOfBlock]) _ (by simp [bytesOfBlock]; omega), bytesOfBlock_length]
  rw [List.getD_eq_getElem _ _ (by rw [bytesOfBlock_length]; omega)]
  simp only [bytesOfBlock, List.getElem_map, List.getElem_range, blockByte, BitVec.getLsbD_extractLsb']
  have : 1016 - 8 * (128 - 1 - i / 8) + i % 8 = i := by omega
  rw [this]; simp; omega

/-- How many words the schedule has so far. -/
theorem scheduleTo_length (b : Block) (n : Nat) : (scheduleTo b n).length = 16 + n := by
  induction n with
  | zero => simp [scheduleTo]
  | succ n ih => simp [scheduleTo, extendSchedule, ih]; omega

/-- A new word leaves the earlier words alone. -/
theorem wordAt_extend (ws : List Word) (j : Nat) (h : j < ws.length) : wordAt (extendSchedule ws) j = wordAt ws j := by
  simp only [wordAt, extendSchedule]
  rw [List.getD_append _ _ _ _ h]

/-- Later words leave the earlier words alone. -/
theorem wordAt_scheduleTo (b : Block) (n m j : Nat) (h : j < 16 + n) :
    wordAt (scheduleTo b (n + m)) j = wordAt (scheduleTo b n) j := by
  induction m with
  | zero => rfl
  | succ m ih =>
    rw [← ih, ← Nat.add_assoc, scheduleTo, wordAt_extend]
    rw [scheduleTo_length]; omega

/-- The new word. -/
theorem wordAt_extend_last (ws : List Word) : wordAt (extendSchedule ws) ws.length =
   wordAt ws (ws.length - 16) + sigma0 (wordAt ws (ws.length - 15)) + wordAt ws (ws.length - 7)
    + sigma1 (wordAt ws (ws.length - 2)) := by
  simp [wordAt, extendSchedule]

/-- The first 16 words are the message words. -/
theorem wordAt_schedule_msg (b : Block) (j : Nat) (h : j < 16) : wordAt (schedule b) j = blockWord b j := by
  have := wordAt_scheduleTo b 0 64 j (by omega)
  rw [Nat.zero_add] at this
  rw [schedule, this]
  simp only [wordAt, scheduleTo]
  rw [List.getD_eq_getElem _ _ (by simpa using h)]
  simp [blockWords]

end Sys2Proof.Machine
end

