-- ==== Sys2Proof/Laws/State.lean ====
section
/-!
SUPPORT. One lemma per field of State for each named update, so that no proof unfolds a record update.
-/
namespace Sys2Proof.Machine

@[simp] theorem loadIV_H (s : State) : (loadIV s).H = iv := rfl
@[simp] theorem loadIV_V (s : State) : (loadIV s).V = s.V := rfl
@[simp] theorem loadIV_vWritten (s : State) : (loadIV s).vWritten = s.vWritten := rfl
@[simp] theorem loadIV_Wwin (s : State) : (loadIV s).Wwin = s.Wwin := rfl
@[simp] theorem loadIV_wwinWritten (s : State) : (loadIV s).wwinWritten = s.wwinWritten := rfl
@[simp] theorem loadIV_t (s : State) : (loadIV s).t = s.t := rfl
@[simp] theorem loadIV_fsm (s : State) : (loadIV s).fsm = s.fsm := rfl
@[simp] theorem loadIV_dv (s : State) : (loadIV s).dv = s.dv := rfl
@[simp] theorem loadIV_err (s : State) : (loadIV s).err = s.err := rfl
@[simp] theorem loadIV_inputs (s : State) : (loadIV s).inputs = s.inputs := rfl

@[simp] theorem clearValid_H (s : State) : (clearValid s).H = s.H := rfl
@[simp] theorem clearValid_V (s : State) : (clearValid s).V = s.V := rfl
@[simp] theorem clearValid_vWritten (s : State) : (clearValid s).vWritten = s.vWritten := rfl
@[simp] theorem clearValid_Wwin (s : State) : (clearValid s).Wwin = s.Wwin := rfl
@[simp] theorem clearValid_wwinWritten (s : State) : (clearValid s).wwinWritten = s.wwinWritten := rfl
@[simp] theorem clearValid_t (s : State) : (clearValid s).t = s.t := rfl
@[simp] theorem clearValid_fsm (s : State) : (clearValid s).fsm = s.fsm := rfl
@[simp] theorem clearValid_dv (s : State) : (clearValid s).dv = false := rfl
@[simp] theorem clearValid_err (s : State) : (clearValid s).err = s.err := rfl
@[simp] theorem clearValid_inputs (s : State) : (clearValid s).inputs = s.inputs := rfl

@[simp] theorem setErr_H (s : State) : (setErr s).H = s.H := rfl
@[simp] theorem setErr_V (s : State) : (setErr s).V = s.V := rfl
@[simp] theorem setErr_vWritten (s : State) : (setErr s).vWritten = s.vWritten := rfl
@[simp] theorem setErr_Wwin (s : State) : (setErr s).Wwin = s.Wwin := rfl
@[simp] theorem setErr_wwinWritten (s : State) : (setErr s).wwinWritten = s.wwinWritten := rfl
@[simp] theorem setErr_t (s : State) : (setErr s).t = s.t := rfl
@[simp] theorem setErr_fsm (s : State) : (setErr s).fsm = s.fsm := rfl
@[simp] theorem setErr_dv (s : State) : (setErr s).dv = s.dv := rfl
@[simp] theorem setErr_err (s : State) : (setErr s).err = true := rfl
@[simp] theorem setErr_inputs (s : State) : (setErr s).inputs = s.inputs := rfl

@[simp] theorem dropInput_H (s : State) : (dropInput s).H = s.H := rfl
@[simp] theorem dropInput_V (s : State) : (dropInput s).V = s.V := rfl
@[simp] theorem dropInput_vWritten (s : State) : (dropInput s).vWritten = s.vWritten := rfl
@[simp] theorem dropInput_Wwin (s : State) : (dropInput s).Wwin = s.Wwin := rfl
@[simp] theorem dropInput_wwinWritten (s : State) : (dropInput s).wwinWritten = s.wwinWritten := rfl
@[simp] theorem dropInput_t (s : State) : (dropInput s).t = s.t := rfl
@[simp] theorem dropInput_fsm (s : State) : (dropInput s).fsm = s.fsm := rfl
@[simp] theorem dropInput_dv (s : State) : (dropInput s).dv = s.dv := rfl
@[simp] theorem dropInput_err (s : State) : (dropInput s).err = s.err := rfl
@[simp] theorem dropInput_inputs (s : State) : (dropInput s).inputs = s.inputs.tail := rfl

@[simp] theorem writeWorking_H (v : Vector Word 8) (s : State) : (writeWorking v s).H = s.H := rfl
@[simp] theorem writeWorking_V (v : Vector Word 8) (s : State) : (writeWorking v s).V = v := rfl
@[simp] theorem writeWorking_vWritten (v : Vector Word 8) (s : State) : (writeWorking v s).vWritten = Vector.replicate 8 true := rfl
@[simp] theorem writeWorking_Wwin (v : Vector Word 8) (s : State) : (writeWorking v s).Wwin = s.Wwin := rfl
@[simp] theorem writeWorking_wwinWritten (v : Vector Word 8) (s : State) : (writeWorking v s).wwinWritten = s.wwinWritten := rfl
@[simp] theorem writeWorking_t (v : Vector Word 8) (s : State) : (writeWorking v s).t = s.t := rfl
@[simp] theorem writeWorking_fsm (v : Vector Word 8) (s : State) : (writeWorking v s).fsm = s.fsm := rfl
@[simp] theorem writeWorking_dv (v : Vector Word 8) (s : State) : (writeWorking v s).dv = s.dv := rfl
@[simp] theorem writeWorking_err (v : Vector Word 8) (s : State) : (writeWorking v s).err = s.err := rfl
@[simp] theorem writeWorking_inputs (v : Vector Word 8) (s : State) : (writeWorking v s).inputs = s.inputs := rfl

@[simp] theorem writeWindow_H (w : Vector Word 16) (s : State) : (writeWindow w s).H = s.H := rfl
@[simp] theorem writeWindow_V (w : Vector Word 16) (s : State) : (writeWindow w s).V = s.V := rfl
@[simp] theorem writeWindow_vWritten (w : Vector Word 16) (s : State) : (writeWindow w s).vWritten = s.vWritten := rfl
@[simp] theorem writeWindow_Wwin (w : Vector Word 16) (s : State) : (writeWindow w s).Wwin = w := rfl
@[simp] theorem writeWindow_wwinWritten (w : Vector Word 16) (s : State) : (writeWindow w s).wwinWritten = Vector.replicate 16 true := rfl
@[simp] theorem writeWindow_t (w : Vector Word 16) (s : State) : (writeWindow w s).t = s.t := rfl
@[simp] theorem writeWindow_fsm (w : Vector Word 16) (s : State) : (writeWindow w s).fsm = s.fsm := rfl
@[simp] theorem writeWindow_dv (w : Vector Word 16) (s : State) : (writeWindow w s).dv = s.dv := rfl
@[simp] theorem writeWindow_err (w : Vector Word 16) (s : State) : (writeWindow w s).err = s.err := rfl
@[simp] theorem writeWindow_inputs (w : Vector Word 16) (s : State) : (writeWindow w s).inputs = s.inputs := rfl

@[simp] theorem startBlock_H (h : Vector Word 8) (b : Block) (s : State) : (startBlock h b s).H = s.H := rfl
@[simp] theorem startBlock_V (h : Vector Word 8) (b : Block) (s : State) : (startBlock h b s).V = h := rfl
@[simp] theorem startBlock_vWritten (h : Vector Word 8) (b : Block) (s : State) : (startBlock h b s).vWritten = Vector.replicate 8 true := rfl
@[simp] theorem startBlock_Wwin (h : Vector Word 8) (b : Block) (s : State) : (startBlock h b s).Wwin = blockWords b := rfl
@[simp] theorem startBlock_wwinWritten (h : Vector Word 8) (b : Block) (s : State) : (startBlock h b s).wwinWritten = Vector.replicate 16 true := rfl
@[simp] theorem startBlock_t (h : Vector Word 8) (b : Block) (s : State) : (startBlock h b s).t = 0 := rfl
@[simp] theorem startBlock_fsm (h : Vector Word 8) (b : Block) (s : State) : (startBlock h b s).fsm = .round := rfl
@[simp] theorem startBlock_dv (h : Vector Word 8) (b : Block) (s : State) : (startBlock h b s).dv = false := rfl
@[simp] theorem startBlock_err (h : Vector Word 8) (b : Block) (s : State) : (startBlock h b s).err = s.err := rfl
@[simp] theorem startBlock_inputs (h : Vector Word 8) (b : Block) (s : State) : (startBlock h b s).inputs = s.inputs := rfl

@[simp] theorem resetEdge_H (s : State) : (resetEdge s).H = iv := rfl
@[simp] theorem resetEdge_V (s : State) : (resetEdge s).V = s.V := rfl
@[simp] theorem resetEdge_vWritten (s : State) : (resetEdge s).vWritten = Vector.replicate 8 false := rfl
@[simp] theorem resetEdge_Wwin (s : State) : (resetEdge s).Wwin = s.Wwin := rfl
@[simp] theorem resetEdge_wwinWritten (s : State) : (resetEdge s).wwinWritten = Vector.replicate 16 false := rfl
@[simp] theorem resetEdge_t (s : State) : (resetEdge s).t = 0 := rfl
@[simp] theorem resetEdge_fsm (s : State) : (resetEdge s).fsm = .idle := rfl
@[simp] theorem resetEdge_dv (s : State) : (resetEdge s).dv = false := rfl
@[simp] theorem resetEdge_err (s : State) : (resetEdge s).err = false := rfl
@[simp] theorem resetEdge_inputs (s : State) : (resetEdge s).inputs = s.inputs := rfl

@[simp] theorem placeOffer_H (p : PortInput) (s : State) : (placeOffer p s).H = s.H := rfl
@[simp] theorem placeOffer_V (p : PortInput) (s : State) : (placeOffer p s).V = s.V := rfl
@[simp] theorem placeOffer_vWritten (p : PortInput) (s : State) : (placeOffer p s).vWritten = s.vWritten := rfl
@[simp] theorem placeOffer_Wwin (p : PortInput) (s : State) : (placeOffer p s).Wwin = s.Wwin := rfl
@[simp] theorem placeOffer_wwinWritten (p : PortInput) (s : State) : (placeOffer p s).wwinWritten = s.wwinWritten := rfl
@[simp] theorem placeOffer_t (p : PortInput) (s : State) : (placeOffer p s).t = s.t := rfl
@[simp] theorem placeOffer_fsm (p : PortInput) (s : State) : (placeOffer p s).fsm = .idle := rfl
@[simp] theorem placeOffer_dv (p : PortInput) (s : State) : (placeOffer p s).dv = s.dv := rfl
@[simp] theorem placeOffer_err (p : PortInput) (s : State) : (placeOffer p s).err = s.err := rfl
@[simp] theorem placeOffer_inputs (p : PortInput) (s : State) : (placeOffer p s).inputs = p :: s.inputs := rfl

@[simp] theorem nextRound_H (s : State) : (nextRound s).H = s.H := by
  unfold nextRound; split <;> rfl
@[simp] theorem nextRound_V (s : State) : (nextRound s).V = s.V := by
  unfold nextRound; split <;> rfl
@[simp] theorem nextRound_vWritten (s : State) : (nextRound s).vWritten = s.vWritten := by
  unfold nextRound; split <;> rfl
@[simp] theorem nextRound_Wwin (s : State) : (nextRound s).Wwin = s.Wwin := by
  unfold nextRound; split <;> rfl
@[simp] theorem nextRound_wwinWritten (s : State) : (nextRound s).wwinWritten = s.wwinWritten := by
  unfold nextRound; split <;> rfl
@[simp] theorem nextRound_dv (s : State) : (nextRound s).dv = s.dv := by
  unfold nextRound; split <;> rfl
@[simp] theorem nextRound_err (s : State) : (nextRound s).err = s.err := by
  unfold nextRound; split <;> rfl
@[simp] theorem nextRound_inputs (s : State) : (nextRound s).inputs = s.inputs := by
  unfold nextRound; split <;> rfl

@[simp] theorem nextRound_t (s : State) : (nextRound s).t = if s.t = 79#7 then 0#7 else s.t + 1#7 := by
  unfold nextRound; split <;> rfl
@[simp] theorem nextRound_fsm (s : State) : (nextRound s).fsm = if s.t = 79#7 then .feed else s.fsm := by
  unfold nextRound; split <;> rfl

end Sys2Proof.Machine
end

