-- ==== Sys2Proof/Laws/Operations.lean ====
section
/-!
SUPPORT. One lemma per shared operation that says what it can do: the reads that can fault, the entries of the vectors,
the edges, and one step.
-/
namespace Sys2Proof.Machine

theorem kTable_length : kTable.length = 80 := by decide

/-- The ROM read answers exactly the 80 entries, with the word the normative functions use. -/
theorem romRead_eq (t : BitVec 7) : romRead t = if t.toNat < 80 then some (kConst t.toNat) else none := by
  unfold romRead kConst
  split
  · next h =>
    have h' : t.toNat < kTable.length := by rw [kTable_length]; exact h
    rw [List.getElem?_eq_getElem h', List.getD_eq_getElem _ _ h']
  · next h => exact List.getElem?_eq_none (by rw [kTable_length]; omega)

theorem all_id_iff_replicate {n : Nat} (v : Vector Bool n) :
    v.toList.all id = true ↔ v = Vector.replicate n true := by
  rw [List.all_eq_true]
  constructor
  · intro h
    ext i hi
    simpa using h v[i] (by simp)
  · rintro rfl x hx
    simp only [Vector.toList_replicate, List.mem_replicate] at hx
    simp [hx.2]

/-- `V` is read exactly where every entry is written. -/
theorem readWorking_eq (s : State) :
    readWorking s = if s.vWritten = Vector.replicate 8 true then some s.V else none := by
  simp only [readWorking, all_id_iff_replicate]

/-- `Wwin` is read exactly where every entry is written. -/
theorem readWindow_eq (s : State) :
    readWindow s = if s.wwinWritten = Vector.replicate 16 true then some s.Wwin else none := by
  simp only [readWindow, all_id_iff_replicate]

@[simp] theorem shiftWindow_get (w : Vector Word 16) (j : Nat) (h : j < 16) :
    (shiftWindow w)[j] = if h' : j < 15 then w[j + 1] else windowNew w := by
  simp [shiftWindow]

@[simp] theorem feedForward_get (h v : Vector Word 8) (i : Nat) (hi : i < 8) :
    (feedForward h v)[i] = h[i] + v[i] := by
  simp [feedForward]

@[simp] theorem blockWords_get (b : Block) (j : Nat) (h : j < 16) : (blockWords b)[j] = blockWord b j := by
  simp [blockWords]

/-- A ROUND edge whose reads are all allowed. -/
theorem roundEdge_next {s : State} (hv : s.vWritten = Vector.replicate 8 true)
    (hw : s.wwinWritten = Vector.replicate 16 true) (ht : s.t.toNat < 80) :
    roundEdge s = .next (nextRound (writeWindow (shiftWindow s.Wwin)
      (writeWorking (shaRound s.V (kConst s.t.toNat) s.Wwin[0]) s))) := by
  simp [roundEdge, readWorking_eq, readWindow_eq, romRead_eq, hv, hw, ht]

/-- Everything a ROUND edge that goes on can do. -/
theorem roundEdge_cases {s s' : State} (h : roundEdge s = .next s') :
    s.vWritten = Vector.replicate 8 true ∧ s.wwinWritten = Vector.replicate 16 true ∧ s.t.toNat < 80 ∧
      s' = nextRound (writeWindow (shiftWindow s.Wwin)
        (writeWorking (shaRound s.V (kConst s.t.toNat) s.Wwin[0]) s)) := by
  by_cases hv : s.vWritten = Vector.replicate 8 true
  · by_cases hw : s.wwinWritten = Vector.replicate 16 true
    · by_cases ht : s.t.toNat < 80
      · rw [roundEdge_next hv hw ht] at h
        exact ⟨hv, hw, ht, (Host.Outcome.next.inj h).symm⟩
      · simp [roundEdge, readWorking_eq, readWindow_eq, romRead_eq, hv, hw, ht] at h
    · simp [roundEdge, readWorking_eq, readWindow_eq, hv, hw] at h
  · simp [roundEdge, readWorking_eq, hv] at h

/-- A ROUND edge never refuses. -/
theorem roundEdge_not_refused (s : State) (r : Refusal) : roundEdge s ≠ .refused r := by
  unfold roundEdge; split <;> simp

/-- A FEED edge whose read is allowed. -/
theorem feedEdge_next {s : State} (hv : s.vWritten = Vector.replicate 8 true) :
    feedEdge s = .next { s with H := feedForward s.H s.V, dv := true, fsm := .idle } := by
  simp [feedEdge, readWorking_eq, hv]

/-- Everything a FEED edge that goes on can do. -/
theorem feedEdge_cases {s s' : State} (h : feedEdge s = .next s') :
    s.vWritten = Vector.replicate 8 true ∧ s' = { s with H := feedForward s.H s.V, dv := true, fsm := .idle } := by
  by_cases hv : s.vWritten = Vector.replicate 8 true
  · rw [feedEdge_next hv] at h
    exact ⟨hv, (Host.Outcome.next.inj h).symm⟩
  · simp [feedEdge, readWorking_eq, hv] at h

/-- An edge that accepts nothing never refuses. -/
theorem quietEdge_not_refused (s : State) (r : Refusal) : quietEdge s ≠ .refused r := by
  unfold quietEdge
  split
  · simp
  · exact roundEdge_not_refused s r
  · unfold feedEdge; split <;> simp
  · simp

/-- Everything an edge that accepts nothing can do, where it goes on. -/
theorem quietEdge_cases {s s' : State} (h : quietEdge s = .next s') :
    (s.fsm = .idle ∧ s' = s) ∨ (s.fsm = .round ∧ roundEdge s = .next s') ∨
      (s.fsm = .feed ∧ feedEdge s = .next s') := by
  unfold quietEdge at h
  split at h
  · next hf => exact .inl ⟨hf, (Host.Outcome.next.inj h).symm⟩
  · next hf => exact .inr (.inl ⟨hf, h⟩)
  · next hf => exact .inr (.inr ⟨hf, h⟩)
  · simp at h

/-- The edge that accepts nothing, in each state of the controller. -/
theorem quietEdge_idle {s : State} (hf : s.fsm = .idle) : quietEdge s = .next s := by
  simp [quietEdge, hf]

theorem quietEdge_round {s : State} (hf : s.fsm = .round) (hv : s.vWritten = Vector.replicate 8 true)
    (hw : s.wwinWritten = Vector.replicate 16 true) (ht : s.t.toNat < 80) :
    quietEdge s = .next (nextRound (writeWindow (shiftWindow s.Wwin)
      (writeWorking (shaRound s.V (kConst s.t.toNat) s.Wwin[0]) s))) := by
  simp only [quietEdge, hf]
  exact roundEdge_next hv hw ht

theorem quietEdge_feed {s : State} (hf : s.fsm = .feed) (hv : s.vWritten = Vector.replicate 8 true) :
    quietEdge s = .next { s with H := feedForward s.H s.V, dv := true, fsm := .idle } := by
  simp only [quietEdge, hf]
  exact feedEdge_next hv

/-- A command offered in IDLE is accepted. -/
theorem offered_idle {s : State} (accept : State → State) (h : s.fsm = .idle) : offered accept s = .next (accept s) := by
  simp [offered, h]

/-- A command offered while the controller is not in IDLE has no effect. -/
theorem offered_busy {s : State} (accept : State → State) (h : s.fsm ≠ .idle) : offered accept s = quietEdge s := by
  unfold offered; split <;> simp_all

/-- The effect of an accepted command. -/
def acceptEffect : Instr → State → State
  | .init, s => clearValid (loadIV s)
  | .block b, s => startBlock s.H b s
  | .initBlock b, s => startBlock iv b (loadIV s)
  | .reserved, s => setErr s

/-- Every command in IDLE completes with its effect. -/
theorem exec_idle (i : Instr) {s : State} (h : s.fsm = .idle) : exec i s = .next (acceptEffect i s) := by
  cases i <;> simp [exec, execInit, execBlock, execInitBlock, execReserved, offered_idle _ h, acceptEffect]

/-- Every command offered while the controller is not in IDLE has no effect. -/
theorem exec_busy (i : Instr) {s : State} (h : s.fsm ≠ .idle) : exec i s = quietEdge s := by
  cases i <;> simp [exec, execInit, execBlock, execInitBlock, execReserved, offered_busy _ h]

/-- Everything an edge can do, where it goes on. -/
theorem clockEdge_cases {p : PortInput} {s s' : State} (h : clockEdge p s = .next s') :
    (p.rst = .known true ∧ s' = resetEdge s) ∨
    (p.rst = .known false ∧ p.cmdValid = .known true ∧ s.fsm = .idle ∧
      ∃ i, decodePorts p.cmdOp p.blkData = .ok i ∧ s' = acceptEffect i s) ∨
    (p.rst = .known false ∧ p.cmdValid = .known false ∧ s.fsm = .idle ∧ s' = s) ∨
    (p.rst = .known false ∧ s.fsm = .round ∧ roundEdge s = .next s') ∨
    (p.rst = .known false ∧ s.fsm = .feed ∧ feedEdge s = .next s') := by
  unfold clockEdge at h
  split at h
  · simp at h
  · next hr => exact .inl ⟨hr, (Host.Outcome.next.inj h).symm⟩
  · next hr =>
    split at h
    · next hf =>
      unfold idleEdge at h
      split at h
      · simp at h
      · next hc =>
        simp only [quietEdge, hf, Host.Outcome.next.injEq] at h
        exact .inr (.inr (.inl ⟨hr, hc, hf, h.symm⟩))
      · next hc =>
        unfold acceptEdge at h
        split at h
        · next i hi =>
          rw [exec_idle i hf] at h
          exact .inr (.inl ⟨hr, hc, hf, i, hi, (Host.Outcome.next.inj h).symm⟩)
        · simp at h
    · next hf =>
      simp only [quietEdge, hf] at h
      exact .inr (.inr (.inr (.inl ⟨hr, hf, h⟩)))
    · next hf =>
      simp only [quietEdge, hf] at h
      exact .inr (.inr (.inr (.inr ⟨hr, hf, h⟩)))
    · next hf => simp [quietEdge, hf] at h

/-- An edge with `rst = 0` while the controller is not in IDLE does not look at the command ports. -/
theorem clockEdge_busy {p : PortInput} {s : State} (hr : p.rst = .known false) (hf : s.fsm ≠ .idle) :
    clockEdge p s = quietEdge s := by
  unfold clockEdge
  rw [hr]
  dsimp only
  split <;> simp_all

/-- An edge with `rst = 0` in IDLE at which a command is offered runs it. -/
theorem clockEdge_accept {p : PortInput} {s : State} {i : Instr} (hr : p.rst = .known false)
    (hc : p.cmdValid = .known true) (hf : s.fsm = .idle) (hd : decodePorts p.cmdOp p.blkData = .ok i) :
    clockEdge p s = exec i s := by
  simp [clockEdge, idleEdge, acceptEdge, hr, hc, hf, hd]

/-- Decoding the ports the encoder drives gives the command back. -/
theorem decodePorts_encode (i : Instr) : decodePorts (encode i).1 (encode i).2 = .ok i := by
  cases i <;> rfl

/-- A step is an edge with the next of the host's inputs. -/
theorem step_cons {s : State} {p : PortInput} {rest : List PortInput} (h : s.inputs = p :: rest) :
    step s = clockEdge p { s with inputs := rest } := by
  simp [step, nextInput, dropInput, h]

/-- Past the end of the list the host offers nothing. -/
theorem step_nil {s : State} (h : s.inputs = []) : step s = clockEdge .quiet s := by
  cases s
  simp_all [step, nextInput, dropInput]

/-- A run of one more edge, by how its first edge ends. -/
theorem run_next {s u : State} (n : Nat) (h : step s = .next u) :
    Host.Core.run core (n + 1) s = Host.Core.run core n u := by
  have h' : core.step s = .next u := h
  simp only [Host.Core.run, h']

theorem run_fault {s : State} {f : Fault} (n : Nat) (h : step s = .fault f) :
    Host.Core.run core (n + 1) s = .fault f := by
  have h' : core.step s = .fault f := h
  simp only [Host.Core.run, h']

theorem run_refused {s : State} {r : Refusal} (n : Nat) (h : step s = .refused r) :
    Host.Core.run core (n + 1) s = .refused r := by
  have h' : core.step s = .refused r := h
  simp only [Host.Core.run, h']

/-- A run of one more edge, by the edge that comes last. -/
theorem run_last {n : Nat} {s u : State} (h : Host.Core.run core n s = .next u) :
    Host.Core.run core (n + 1) s = step u := by
  induction n generalizing s with
  | zero =>
    have h : (Host.Outcome.next s : Host.Outcome State Fault Refusal) = .next u := h
    obtain rfl : s = u := Host.Outcome.next.inj h
    rcases h : step s with v | f | r
    · rw [run_next 0 h]; rfl
    · rw [run_fault 0 h]; rfl
    · rw [run_refused 0 h]; rfl
  | succ n ih =>
    rcases hs : step s with v | f | r
    · rw [run_next _ hs] at h ⊢; exact ih h
    · rw [run_fault _ hs] at h; cases h
    · rw [run_refused _ hs] at h; cases h

/-- A step that accepts a command completes with the command's effect. -/
theorem accepted_step {s : State} {i : Instr} (h : acceptedCommand s = some i) :
    s.fsm = .idle ∧ step s = .next (acceptEffect i (dropInput s)) := by
  unfold acceptedCommand at h
  split at h
  · next hc =>
    refine ⟨hc.2.2, ?_⟩
    rcases hd : decodePorts (nextInput s).cmdOp (nextInput s).blkData with e | j
    · rw [hd] at h; simp [Except.toOption] at h
    · rw [hd] at h
      simp only [Except.toOption, Option.some.injEq] at h
      subst h
      exact (clockEdge_accept hc.1 hc.2.1 (s := dropInput s) hc.2.2 hd).trans (exec_idle _ hc.2.2)
  · simp at h

/-- A step with `rst = 0` while the controller is not in IDLE. -/
theorem busy_step {s : State} (h : (nextInput s).rst = .known false) (hf : s.fsm ≠ .idle) :
    step s = quietEdge (dropInput s) :=
  clockEdge_busy (s := dropInput s) h hf

/-- The last value of the counter. -/
theorem counter_last (t : BitVec 7) : t = 79#7 ↔ t.toNat = 79 :=
  ⟨fun h => by rw [h]; rfl, fun h => BitVec.eq_of_toNat_eq (by simpa using h)⟩

/-- Everything a step that goes on can do. -/
theorem step_cases {s u : State} (h : step s = .next u) :
    ((nextInput s).rst = .known true ∧ u = resetEdge (dropInput s)) ∨
    ((nextInput s).rst = .known false ∧ (nextInput s).cmdValid = .known true ∧ s.fsm = .idle ∧
      ∃ i, acceptedCommand s = some i ∧ u = acceptEffect i (dropInput s)) ∨
    ((nextInput s).rst = .known false ∧ acceptedCommand s = none ∧ s.fsm = .idle ∧ u = dropInput s) ∨
    ((nextInput s).rst = .known false ∧ acceptedCommand s = none ∧ s.fsm = .round ∧
      s.vWritten = Vector.replicate 8 true ∧ s.wwinWritten = Vector.replicate 16 true ∧ s.t.toNat < 80 ∧
      u = nextRound (writeWindow (shiftWindow s.Wwin)
        (writeWorking (shaRound s.V (kConst s.t.toNat) s.Wwin[0]) (dropInput s)))) ∨
    ((nextInput s).rst = .known false ∧ acceptedCommand s = none ∧ s.fsm = .feed ∧
      s.vWritten = Vector.replicate 8 true ∧
      u = { dropInput s with H := feedForward s.H s.V, dv := true, fsm := .idle }) := by
  rcases clockEdge_cases h with ⟨h1, h2⟩ | ⟨h1, h2, h3, i, h4, h5⟩ | ⟨h1, h2, h3, h4⟩ | ⟨h1, h2, h3⟩ | ⟨h1, h2, h3⟩
  · exact .inl ⟨h1, h2⟩
  · refine .inr (.inl ⟨h1, h2, h3, i, ?_, h5⟩)
    simp only [dropInput_fsm] at h3
    simp [acceptedCommand, h1, h2, h3, h4, Except.toOption]
  · refine .inr (.inr (.inl ⟨h1, ?_, h3, h4⟩))
    simp [acceptedCommand, h2]
  · obtain ⟨a, b, c, d⟩ := roundEdge_cases h3
    simp only [dropInput_fsm] at h2
    refine .inr (.inr (.inr (.inl ⟨h1, by simp [acceptedCommand, h2], h2, a, b, c, d⟩)))
  · obtain ⟨a, d⟩ := feedEdge_cases h3
    simp only [dropInput_fsm] at h2
    refine .inr (.inr (.inr (.inr ⟨h1, by simp [acceptedCommand, h2], h2, a, d⟩)))

/-- Every step takes one of the host's inputs. -/
theorem step_inputs {s u : State} (h : step s = .next u) : u.inputs = s.inputs.tail := by
  rcases step_cases h with ⟨h1, rfl⟩ | ⟨h1, h2, h3, i, h4, rfl⟩ | ⟨h1, h2, h3, rfl⟩ | ⟨h1, h2, h3, _, _, ht, rfl⟩ |
    ⟨h1, h2, h3, _, rfl⟩
  · simp
  · cases i <;> simp [acceptEffect]
  all_goals simp

end Sys2Proof.Machine
end

