-- ==== Sys2Proof/Laws/Host.lean ====
section
/-!
SUPPORT. What the host's shared operations can do: a run of moves by its first move and by its parts, an offer to an idle
block, and the blocks of a message in and out of the domain.
-/
namespace Sys2Proof.Machine

/-- The blocks of a message in the domain. -/
theorem paddedBlocks_in {m : List Byte} (h : lengthInDomain m.length = true) :
    paddedBlocks m = some (blocksOf (pad m)) := by
  simp [paddedBlocks, h]

/-- A message out of the domain has no blocks. -/
theorem paddedBlocks_out {m : List Byte} (h : lengthInDomain m.length = false) : paddedBlocks m = none := by
  simp [paddedBlocks, h]

/-- A run of one more move, by its first move. -/
theorem hostMoves_succ {r r' : HostRun} (n : Nat) (h : hostMove r = .next r') :
    hostMoves (n + 1) r = hostMoves n r' := by
  simp only [hostMoves, h]

/-- A run of moves in two parts. -/
theorem hostMoves_add {r r' : HostRun} {m : Nat} (n : Nat) (h : hostMoves m r = .next r') :
    hostMoves (m + n) r = hostMoves n r' := by
  induction m generalizing r with
  | zero => cases h; simp
  | succ m ih =>
    rw [show m + 1 + n = (m + n) + 1 by omega]
    simp only [hostMoves] at h ⊢
    rcases hm : hostMove r with a | a | a
    · rw [hm] at h; exact ih h
    · rw [hm] at h; cases h
    · rw [hm] at h; cases h

/-- A host with nothing to do stays as it is. -/
theorem hostMoves_done {r : HostRun} (h : r.todo = []) (n : Nat) : hostMoves n r = .next r := by
  induction n with
  | zero => rfl
  | succ n ih => rw [hostMoves_succ n (r' := r) (by simp [hostMove, h]), ih]

/-- An offer to an idle block is accepted. -/
theorem offer_accept (i : Instr) {s : State} (h : s.fsm = .idle) : clockEdge (offer i) s = exec i s :=
  clockEdge_accept rfl rfl h (decodePorts_encode i)

end Sys2Proof.Machine
end

