-- ==== Sys2Proof/Laws/PerInstr.lean ====
section
/-!
SUPPORT. Statements about every command as syntax: the ports the encoder drives decode to the command, and so do the
same ports with any block in the place of one that the command does not take.
-/
namespace Sys2Proof.Laws.PortEncoding

/-- The encoder's opcode decodes to the command, whatever block the port holds where the command takes none
(30_encoding.md R74, R75). -/
def Statement (i : Instr) : Prop :=
  i.wf = true ∧ ∀ blk : Pin Block, encodeBlk i = .unknown ∨ blk = encodeBlk i →
    decodePorts (.known (encodeOp i)) blk = .ok i

theorem init : Statement .init := ⟨rfl, fun _ _ => rfl⟩

theorem block (b : Block) : Statement (.block b) :=
  ⟨rfl, fun blk h => by simp [encodeBlk] at h; subst h; rfl⟩

theorem initBlock (b : Block) : Statement (.initBlock b) :=
  ⟨rfl, fun blk h => by simp [encodeBlk] at h; subst h; rfl⟩

theorem reserved : Statement .reserved := ⟨rfl, fun _ _ => rfl⟩

end Sys2Proof.Laws.PortEncoding
end

