-- ==== Sys2Proof/Tests/Slice0.lean ====
section
/-!
SUPPORT. The model's own tests. Every expected value is the spec's: the opcode map (30_encoding.md R75) and the vectors
of 95_test_vectors.md, whose row each test names. `witness_…` theorems show states and operands that meet the
hypotheses of the obligation they name, all together.
-/
namespace Sys2Proof.Machine.Slice0

/-! ### Well-formedness and decoding -/

/-- A block of 127 bytes is refused, one of 128 is not (20_memory.md R53). -/
theorem test_wholeBlock_refuses_partial :
    wholeBlock (List.replicate 127 0#8) = false ∧ wholeBlock (List.replicate 129 0#8) = false ∧
    wholeBlock (List.replicate 128 0#8) = true := by
  simp [wholeBlock, Config.blockBytes]

/-- The message length's bound (41_host_padding.md R128). -/
theorem test_lengthInDomain_bound :
    lengthInDomain (2 ^ 125) = false ∧ lengthInDomain (2 ^ 125 - 1) = true ∧ lengthInDomain 0 = true := by decide

/-- Images that are no transfer: none, a code of more than two bits, a partial block. -/
theorem test_decodeImage_refuses :
    decodeImage [] = .error .noTransfer ∧
    decodeImage (4#8 :: List.replicate 128 0#8) = .error .notATwoBitCode ∧
    decodeImage (1#8 :: List.replicate 127 0#8) = .error .partialBlock := by decide +kernel

/-- R75: `cmd_op` 00. -/
theorem test_decode_init : decodeTableWord 8 0b00000000 = some .init := by decide

/-- R75, R76: `cmd_op` 01, and byte 0 of the block (0x80) in `blk_data[1023:1016]`. -/
theorem test_decode_block :
    decodeTableWord 1032 0b10000000_00000001 = some (.block (0x80#1024 <<< 1016)) := by decide +kernel

/-- R75, R76: `cmd_op` 10, and byte 127 of the block (0x18) in `blk_data[7:0]`. -/
theorem test_decode_initBlock :
    decodeTableWord 1032 (0b00000010 + 0x18 * 2 ^ 1024) = some (.initBlock 0x18#1024) := by decide +kernel

/-- R75: `cmd_op` 11. -/
theorem test_decode_reserved : decodeTableWord 8 0b00000011 = some .reserved := by decide

/-- R83: an unknown block refuses BLOCK and is no matter to INIT. -/
theorem test_decode_unknown_block :
    decodePorts (.known 0b01#2) .unknown = .error .unknownBlock ∧ decodePorts (.known 0b00#2) .unknown = .ok .init ∧
    decodePorts .unknown (.known 0) = .error .unknownOpcode := by decide

/-! ### Small states -/

/-- The padded block of "abc" (95_test_vectors.md 2.6): bytes 61 62 63 80, zeros, and 18 last. -/
def abcBlock : Block := (0x61626380#1024 <<< 992) ||| 0x18#1024

/-- Eight words that are not IV. -/
def words : Vector Word 8 := #v[1, 2, 3, 4, 5, 6, 7, 8]

/-- IDLE with a digest state, `dv = 1` and the given inputs. -/
def idleState (ps : List PortInput) : State := { State.reset with H := words, dv := true, inputs := ps }

/-- ROUND `t` of the block "abc" from IV (R223). -/
def roundState (t : BitVec 7) (ps : List PortInput) : State :=
  { State.reset with
    V := iv, vWritten := Vector.replicate 8 true, Wwin := blockWords abcBlock,
    wwinWritten := Vector.replicate 16 true, t := t, fsm := .round, inputs := ps }

/-- FEED with the overflow corner of 95_test_vectors.md C10. -/
def feedState (ps : List PortInput) : State :=
  { State.reset with
    H := #v[0xFFFFFFFFFFFFFFFF, 0, 0, 0, 0, 0, 0, 0], V := #v[2, 1, 0, 0, 0, 0, 0, 0],
    vWritten := Vector.replicate 8 true, wwinWritten := Vector.replicate 16 true, fsm := .feed, inputs := ps }

/-- A reset edge at which INIT_BLOCK is offered as well. -/
def resetPins : PortInput := ⟨.known true, .known true, .known 0b10#2, .known 0⟩

/-- An edge at which every port is known and nothing is offered. -/
def noOffer : PortInput := ⟨.known false, .known false, .known 0b01#2, .known 0⟩

/-- The next state holds `f`. -/
def nextIs {σ : Type} (o : Host.Outcome σ Fault Refusal) (f : σ → Bool) : Bool :=
  match o with
  | .next u => f u
  | .fault _ => false
  | .refused _ => false

/-! ### One step each -/

/-- C2. -/
theorem test_init_loads_iv :
    nextIs (step ((idleState []).withFetchWord 8 0)) (fun u => u.H = iv ∧ u.dv = false ∧ u.fsm = .idle) = true := by
  decide

/-- C8: INIT offered in round 5 is not taken. -/
theorem test_init_while_busy :
    nextIs (step (roundState 5#7 [offer .init])) (fun u => u.t = 6#7 ∧ u.fsm = .round ∧ u.V ≠ iv) = true := by
  decide

/-- C3, from the opcode table's own word (a block of zeros). -/
theorem test_block_starts_from_H :
    nextIs (step ((idleState []).withFetchWord 8 1))
      (fun u => u.V = words ∧ u.H = words ∧ u.Wwin[15] = 0 ∧ u.t = 0 ∧ u.fsm = .round ∧ u.dv = false) = true := by
  decide +kernel

/-- 2.6: W[0] and W[15] of "abc" in the window. -/
theorem test_block_loads_window :
    nextIs (exec (.block abcBlock) State.reset)
      (fun u => u.Wwin[0] = 0x6162638000000000 ∧ u.Wwin[1] = 0 ∧ u.Wwin[15] = 0x18 ∧ u.V = iv) = true := by
  decide +kernel

/-- C4, from the opcode table's own word. -/
theorem test_initBlock_starts_from_iv :
    nextIs (step ((idleState []).withFetchWord 8 2))
      (fun u => u.V = iv ∧ u.H = iv ∧ u.t = 0 ∧ u.fsm = .round ∧ u.dv = false) = true := by
  decide

/-- C12: not accepted at a reset edge. -/
theorem test_initBlock_at_reset_edge :
    nextIs (step (idleState [resetPins])) (fun u => u = State.reset) = true := by decide

/-- C5. -/
theorem test_reserved_sets_err :
    nextIs (step ((idleState []).withFetchWord 8 3))
      (fun u => u.err = true ∧ u.H = words ∧ u.dv = true ∧ u.fsm = .idle ∧ status u = 0b110#3) = true := by
  decide

/-- C6. -/
theorem test_reserved_again :
    nextIs (exec .reserved { State.reset with err := true }) (fun u => u = { State.reset with err := true }) = true := by
  decide

/-- C9. -/
theorem test_round_79_ends_in_feed :
    nextIs (step (roundState 79#7 [])) (fun u => u.t = 0 ∧ u.fsm = .feed ∧ u.dv = false) = true := by decide

/-- C10, with the carry out of bit 63 discarded. -/
theorem test_feed_wraps :
    nextIs (step (feedState [])) (fun u => u.H[0] = 1 ∧ u.H[1] = 1 ∧ u.dv = true ∧ u.fsm = .idle) = true := by
  decide

/-- C11. -/
theorem test_reset_in_a_block :
    nextIs (step (roundState 39#7 [resetPins]))
      (fun u => u.H = iv ∧ u.fsm = .idle ∧ u.t = 0 ∧ u.vWritten[7] = false ∧ cmdReady u = true) = true := by
  decide

/-- 2.6: the row of t = 0, T1 and T2 included. -/
theorem test_round_0_of_abc :
    temp1 iv (kConst 0) 0x6162638000000000 = 0xb37b0cfa1b97e8a0 ∧ temp2 iv = 0x4334c1bea164f555 ∧
    nextIs (step (roundState 0#7 []))
      (fun u => u.V = #v[0xf6afceb8bcfcddf5, 0x6a09e667f3bcc908, 0xbb67ae8584caa73b, 0x3c6ef372fe94f82b,
        0x58cb02347ab51f91, 0x510e527fade682d1, 0x9b05688c2b3e6c1f, 0x1f83d9abfb41bd6b] ∧
        u.Wwin[15] = 0x6162638000000000 ∧ u.Wwin[14] = 0x18) = true := by
  decide +kernel

/-! ### Functions -/

/-- 2.1. -/
theorem test_rotr_shr :
    rotr 1 61 = 8 ∧ rotr 0x0123456789ABCDEF 1 = 0x8091A2B3C4D5E6F7 ∧ shr 0x8000000000000000 6 = 0x0200000000000000 := by
  decide

/-- 2.2, 2.3. -/
theorem test_mixing :
    sigma0 0x0123456789ABCDEF = 0x6F92C77C6C4F1AA1 ∧ sigma1 0x0123456789ABCDEF = 0x70A3460DBBD4317A ∧
    bigSigma0 0x0123456789ABCDEF = 0xB7C57A100C7EC1AB ∧ bigSigma1 0x0123456789ABCDEF = 0x7703112333475567 := by
  decide

/-- 2.8: the corners of the tables. -/
theorem test_tables :
    kConst 0 = 0x428A2F98D728AE22 ∧ kConst 79 = 0x6C44198C4A475817 ∧ romRead 80#7 = none ∧
    iv[0] = 0x6A09E667F3BCC908 ∧ iv[7] = 0x5BE0CD19137E2179 := by decide

/-- 2.4: lengths 111 and 112. -/
theorem test_padding :
    zeroBytes 111 = 0 ∧ zeroBytes 112 = 127 ∧ zeroBytes 0 = 111 ∧
    (pad (List.replicate 112 0x61#8)).length = 256 ∧
    (pad (List.replicate 111 0x61#8)).drop 112 = List.replicate 14 0#8 ++ [0x03, 0x78] := by decide +kernel

/-- 2.9: leading zeros kept, lower case. -/
theorem test_hex :
    hexWord 1 = List.replicate 15 '0' ++ ['1'] ∧
    hexWord 0xABCDEF0123456789 =
      ['a', 'b', 'c', 'd', 'e', 'f', '0', '1', '2', '3', '4', '5', '6', '7', '8', '9'] := by decide

/-- 2.9, the last row: after reset the port renders IV, and with `digest_valid = 0` it is not returned (46_host_driver.md
R250). -/
theorem test_return_requires_valid :
    (hexPort (digest State.reset)).take 16 =
      ['6', 'a', '0', '9', 'e', '6', '6', '7', 'f', '3', 'b', 'c', 'c', '9', '0', '8'] ∧
    (hexPort (digest State.reset)).drop 112 =
      ['5', 'b', 'e', '0', 'c', 'd', '1', '9', '1', '3', '7', 'e', '2', '1', '7', '9'] ∧
    returnHex (readout State.reset) = .error .digestNotValid := by decide +kernel

/-- A READ samples the outputs and takes no edge (20_memory.md R54). -/
theorem test_read_takes_no_edge :
    nextIs (hostMove (hostStart State.reset [.read]))
      (fun r => r = ⟨State.reset, [], [⟨digestOfWords iv, 0b000#3⟩], 0⟩) = true := by
  decide

/-! ### Witnesses for the obligations' hypotheses -/

/-- A state mid-block is legal, at both ends of the counter. -/
theorem roundState_legal (t : BitVec 7) (ps : List PortInput) (h : t.toNat ≤ 79) : (roundState t ps).Legal :=
  ⟨h, fun h => by simp [roundState] at h, fun _ => ⟨rfl, rfl⟩, fun _ => rfl, by simp [roundState]⟩

theorem feedState_legal (ps : List PortInput) : (feedState ps).Legal :=
  ⟨by simp [feedState, State.reset], fun _ => rfl, fun _ => ⟨rfl, rfl⟩, fun _ => rfl, by simp [feedState]⟩

theorem idleState_legal (ps : List PortInput) : (idleState ps).Legal :=
  ⟨by simp [idleState, State.reset], fun _ => rfl, fun h => absurd rfl h, fun h => absurd rfl h,
    by simp [idleState, State.reset]⟩

/-- An offer in IDLE is accepted. -/
theorem offer_accepted (i : Instr) (ps : List PortInput) : acceptedCommand (idleState (offer i :: ps)) = some i := by
  have h : decodePorts (.known (encodeOp i)) (encodeBlk i) = .ok i := decodePorts_encode i
  simp [acceptedCommand, nextInput, idleState, State.reset, offer, encode, h, Except.toOption]

theorem offer_goes_on (i : Instr) (ps : List PortInput) :
    nextIs (step (idleState (offer i :: ps))) (fun _ => true) = true := by
  rw [(accepted_step (offer_accepted i ps)).2]
  rfl

theorem witness_ResetEdgeGivesTheResetState :
    (roundState 39#7 [resetPins, noOffer]).inputs = resetPins :: [noOffer] ∧ resetPins.rst = .known true := ⟨rfl, rfl⟩

theorem witness_HeldResetStaysInTheResetState :
    (roundState 39#7 [resetPins, resetPins, noOffer]).inputs = [resetPins, resetPins] ++ [noOffer] ∧
    [resetPins, resetPins] ≠ [] ∧ (∀ p ∈ [resetPins, resetPins], p.rst = .known true) := by
  refine ⟨rfl, by simp, fun p hp => ?_⟩
  simp only [List.mem_cons, List.not_mem_nil, or_false, or_self] at hp
  rw [hp]
  rfl

/-- For the acceptance statements of INIT, BLOCK, INIT_BLOCK and the reserved command. -/
theorem witness_idle : (idleState []).fsm = .idle ∧ ({ idleState [] with err := true } : State).err = true := ⟨rfl, rfl⟩

theorem witness_InitBlockIsInitThenBlock :
    (idleState []).fsm = .idle ∧ exec .init (idleState []) = .next { idleState [] with H := iv, dv := false } :=
  ⟨rfl, rfl⟩

theorem witness_StepRunsTheOfferedCommand :
    (idleState [offer (.block abcBlock)]).inputs = offer (.block abcBlock) :: [] ∧
    (offer (.block abcBlock)).rst = .known false ∧ (offer (.block abcBlock)).cmdValid = .known true ∧
    decodePorts (offer (.block abcBlock)).cmdOp (offer (.block abcBlock)).blkData = .ok (.block abcBlock) ∧
    (Instr.block abcBlock).wf = true := ⟨rfl, rfl, rfl, rfl, rfl⟩

/-- Every clause: the four commands in IDLE, an offer in ROUND, an offer in FEED. -/
theorem witness_CommandsLeaveOtherRegistersUnchanged :
    (idleState []).fsm = .idle ∧
    (∀ i ∈ [Instr.init, .block abcBlock, .initBlock abcBlock, .reserved],
      nextIs (exec i (idleState [])) (fun _ => true) = true) ∧
    (roundState 79#7 []).fsm = .round ∧ nextIs (exec .init (roundState 79#7 [])) (fun _ => true) = true ∧
    (feedState []).fsm = .feed ∧ nextIs (exec .reserved (feedState [])) (fun _ => true) = true := by decide

/-- Both clauses of the counter: the first and the last round. -/
theorem witness_RoundEdgeRunsOneRound :
    (roundState 0#7 [noOffer]).Legal ∧ (roundState 0#7 [noOffer]).t.toNat ≠ 79 ∧
    (roundState 79#7 [noOffer]).Legal ∧ (roundState 79#7 [noOffer]).t.toNat = 79 ∧
    (roundState 79#7 [noOffer]).fsm = .round ∧ (roundState 79#7 [noOffer]).inputs = noOffer :: [] ∧
    noOffer.rst = .known false ∧
    (∃ T1, T1 = (roundState 79#7 [noOffer]).V[7] + bigSigma1 (roundState 79#7 [noOffer]).V[4] +
      ch (roundState 79#7 [noOffer]).V[4] (roundState 79#7 [noOffer]).V[5] (roundState 79#7 [noOffer]).V[6] +
      kConst (roundState 79#7 [noOffer]).t.toNat + (roundState 79#7 [noOffer]).Wwin[0]) ∧
    (∃ T2, T2 = bigSigma0 (roundState 79#7 [noOffer]).V[0] +
      maj (roundState 79#7 [noOffer]).V[0] (roundState 79#7 [noOffer]).V[1] (roundState 79#7 [noOffer]).V[2]) :=
  ⟨roundState_legal _ _ (by decide), by decide, roundState_legal _ _ (by decide), rfl, rfl, rfl, rfl, ⟨_, rfl⟩, ⟨_, rfl⟩⟩

theorem witness_FeedEdgeAddsTheWorkingRegisters :
    (feedState [noOffer]).Legal ∧ (feedState [noOffer]).fsm = .feed ∧ (feedState [noOffer]).inputs = noOffer :: [] ∧
    noOffer.rst = .known false := ⟨feedState_legal _, rfl, rfl, rfl⟩

theorem witness_IdleEdgeWithoutCommandHolds :
    (idleState [noOffer]).fsm = .idle ∧ (idleState [noOffer]).inputs = noOffer :: [] ∧ noOffer.rst = .known false ∧
    noOffer.cmdValid = .known false := ⟨rfl, rfl, rfl, rfl⟩

theorem witness_OffersWhileBusyHaveNoEffect :
    (roundState 5#7 []).fsm ≠ .idle ∧ noOffer.rst = .known false ∧ (offer .init).rst = .known false := by decide

/-- INIT in IDLE with two blocks; a busy edge with two opcodes. -/
theorem witness_UntakenInputsHaveNoEffect :
    (offer .init).rst = ({ offer .init with blkData := .known 7 } : PortInput).rst ∧
    (offer .init).cmdValid = ({ offer .init with blkData := .known 7 } : PortInput).cmdValid ∧
    (idleState []).fsm = .idle ∧ (offer .init).cmdOp = .known 0b00#2 ∧
    (offer .init).rst = (offer .reserved).rst ∧ (offer .init).cmdValid = (offer .reserved).cmdValid ∧
    (roundState 5#7 []).fsm ≠ .idle := by decide

/-- Every clause: the inputs that are refused, and a step that is not. -/
theorem witness_UnknownInputsRefuseExactlyWhereTaken :
    (⟨.unknown, .known true, .known 0, .known 0⟩ : PortInput).rst = .unknown ∧
    (idleState []).fsm = .idle ∧
    (⟨.known false, .unknown, .known 0, .known 0⟩ : PortInput).cmdValid = .unknown ∧
    (⟨.known false, .known true, .unknown, .known 0⟩ : PortInput).cmdOp = .unknown ∧
    (⟨.known false, .known true, .known 0b01#2, .unknown⟩ : PortInput).blkData = .unknown ∧
    (idleState [offer .init]).inputs = offer .init :: [] ∧
    nextIs (step (idleState [offer .init])) (fun _ => true) = true := by decide

/-- Every clause: a reset edge, INIT, INIT_BLOCK, FEED, and an edge that is none of these. -/
theorem witness_DigestStateHasFourWriters :
    (nextInput (idleState [resetPins])).rst = .known true ∧
    acceptedCommand (idleState [offer .init]) = some .init ∧
    acceptedCommand (idleState [offer (.initBlock abcBlock)]) = some (.initBlock abcBlock) ∧
    (nextInput (feedState [noOffer])).rst = .known false ∧ (feedState [noOffer]).fsm = .feed ∧
    acceptedCommand (idleState [offer (.block abcBlock)]) = some (.block abcBlock) ∧
    (idleState [offer (.block abcBlock)]).fsm ≠ .feed ∧
    nextIs (step (idleState [resetPins])) (fun _ => true) = true ∧
    nextIs (step (idleState [offer .init])) (fun _ => true) = true ∧
    nextIs (step (idleState [offer (.initBlock abcBlock)])) (fun _ => true) = true ∧
    nextIs (step (feedState [noOffer])) (fun _ => true) = true ∧
    nextIs (step (idleState [offer (.block abcBlock)])) (fun _ => true) = true :=
  ⟨rfl, offer_accepted _ _, offer_accepted _ _, rfl, rfl, offer_accepted _ _, by decide, by decide, offer_goes_on _ _,
    offer_goes_on _ _, by decide, offer_goes_on _ _⟩

/-- `err` is set by the reserved command and `dv` by a FEED edge; both edges go on. -/
theorem witness_ErrIsStickyAndInert :
    acceptedCommand (idleState [offer .reserved]) = some .reserved ∧
    nextIs (step (idleState [offer .reserved])) (fun u => u.err) = true ∧
    nextIs (step (idleState [noOffer])) (fun u => !u.err) = true := by decide

theorem witness_DigestValidIsSetByFeedOnly :
    nextIs (step (feedState [noOffer])) (fun u => u.dv) = true ∧
    nextIs (step (idleState [offer .reserved])) (fun u => u.dv) = true ∧
    nextIs (step (idleState [offer .init])) (fun u => !u.dv) = true := by decide

/-- Every clause of the faults, at the first counter value with no ROM entry too. -/
theorem witness_StepFaultsExactlyOnUnreadableState :
    step { idleState [noOffer] with fsm := .unused } = .fault .controllerStuck ∧
    step { feedState [noOffer] with vWritten := Vector.replicate 8 false } = .fault .unwrittenWorking ∧
    step { roundState 5#7 [noOffer] with vWritten := Vector.replicate 8 false } = .fault .unwrittenWorking ∧
    step { roundState 5#7 [noOffer] with wwinWritten := Vector.replicate 16 false } = .fault .unwrittenWindow ∧
    step (roundState 80#7 [noOffer]) = .fault .romIndex ∧
    nextIs (step (roundState 79#7 [noOffer])) (fun _ => true) = true := ⟨rfl, rfl, rfl, rfl, rfl, by decide⟩

theorem witness_EveryStepKeepsTheStateLegal :
    (roundState 79#7 [noOffer]).Legal ∧ nextIs (step (roundState 79#7 [noOffer])) (fun _ => true) = true :=
  ⟨roundState_legal _ _ (by decide), by decide⟩

theorem witness_LegalStatesNeverFault :
    (feedState [noOffer]).Legal ∧ ∀ p ∈ (feedState [noOffer]).inputs, AllKnown p := by
  refine ⟨feedState_legal _, fun p hp => ?_⟩
  have hp : p = noOffer := by simpa [feedState] using hp
  subst hp
  simp [AllKnown, noOffer]

/-- Both commands, at both ends of `k`. -/
theorem witness_RegistersDuringABlock :
    StartsBlock (idleState [offer (.block abcBlock)]) abcBlock words ∧
    StartsBlock (idleState [offer (.initBlock abcBlock)]) abcBlock iv ∧
    NoReset ((idleState [offer (.block abcBlock)]).inputs.tail.take 0) ∧
    NoReset ((idleState [offer (.block abcBlock)]).inputs.tail.take 79) ∧ (79 : Nat) ≤ 79 ∧ (0 : Nat) ≤ 79 := by
  refine ⟨.inl ⟨offer_accepted _ _, rfl⟩, .inr ⟨offer_accepted _ _, rfl⟩, ?_, ?_, by omega, by omega⟩ <;>
    simp [NoReset, idleState]

/-- With inputs that go on past the block's first edge. -/
theorem witness_BlockCompressesTheDigestState :
    StartsBlock (idleState [offer (.block abcBlock), offer .init]) abcBlock words ∧
    NoReset ((idleState [offer (.block abcBlock), offer .init]).inputs.tail.take Config.blockLatency) ∧
    0 < Config.blockLatency := by
  refine ⟨.inl ⟨offer_accepted _ _, rfl⟩, ?_, by decide⟩
  simp [NoReset, idleState, Config.blockLatency, offer]

/-- Two blocks that differ. -/
theorem witness_TimingIsIndependentOfData :
    (idleState [offer (.block abcBlock)]).Legal ∧ State.Legal { State.reset with inputs := [offer (.block 0)] } ∧
    (idleState [offer (.block abcBlock)]).fsm = State.reset.fsm ∧
    (idleState [offer (.block abcBlock)]).t = State.reset.t ∧
    List.Forall₂ SameControl (idleState [offer (.block abcBlock)]).inputs [offer (.block 0)] ∧
    nextIs (step (idleState [offer (.block abcBlock)])) (fun _ => true) = true := by
  refine ⟨idleState_legal _, ⟨by simp [State.reset], fun _ => rfl, fun h => absurd rfl h, fun _ => rfl,
    by simp [State.reset]⟩, rfl, rfl, .cons
    (by simp [SameControl, Pin.isKnown, offer, encode, encodeOp, encodeBlk]) .nil, offer_goes_on _ _⟩

/-- Two idle states with different scratch, one of them written. -/
theorem witness_EarlierScratchIsInvisible :
    (idleState []).fsm = .idle ∧ ({ idleState [] with V := words, t := 3 } : State).fsm = .idle ∧
    (idleState []).H = ({ idleState [] with V := words, t := 3 } : State).H ∧
    (idleState []).V ≠ ({ idleState [] with V := words, t := 3 } : State).V := by decide

theorem witness_CommandImageRoundTrip : (Instr.initBlock abcBlock).wf = true ∧ Instr.init.wf = true := ⟨rfl, rfl⟩

/-- A command that takes no block, with other bytes in its block. -/
theorem witness_DecodedImageIsTheCommandsImage :
    decodeImage (0#8 :: List.replicate 128 7#8) = .ok (.init, []) := by decide +kernel

theorem witness_MessageWordsAreBigEndian : (List.replicate 128 7#8).length = 128 := by simp

/-- Both ends of the recurrence and of the bit and amount ranges. -/
theorem witness_ranges :
    16 ≤ 16 ∧ 16 ≤ 79 ∧ 79 < 80 ∧ 0 < 64 ∧ 63 < 64 ∧ 1 ≤ 1 ∧ 1 ≤ 63 ∧ 63 ≤ 63 := by decide

/-- For the padder's statements: a length in the domain, at its boundaries. -/
theorem witness_padding :
    lengthInDomain (List.replicate 112 (0x61 : Byte)).length = true ∧ 112 + 1 + 16 ≤ 128 * 2 ∧ 112 + 1 ≤ 239 ∧
    239 < 112 + 1 + zeroBytes 112 := by decide

theorem exists_length (n : Nat) : ∃ m : List Byte, m.length = n := ⟨List.replicate n 0, List.length_replicate⟩

/-- The first length that is out of the domain. -/
theorem witness_TooLongMessagesAreRefused : ∃ m : List Byte, 2 ^ 125 ≤ m.length := by
  obtain ⟨m, h⟩ := exists_length (2 ^ 125)
  exact ⟨m, h.ge⟩

theorem asciiBytes_letters (n : Nat) : asciiBytes (List.replicate n 'a') = some (List.replicate n 0x61) := by
  induction n with
  | zero => rfl
  | succ n ih => simp [List.replicate_succ, asciiBytes, ih]

/-- A text of `n` letters in double quotes. -/
theorem quotedText_letters (n : Nat) (after : List Char) :
    quotedText (quoteMark :: (List.replicate n 'a' ++ quoteMark :: after)) = some (List.replicate n 0x61, after) := by
  have ht : (List.replicate n 'a' ++ quoteMark :: after).takeWhile (fun c => decide (c ≠ quoteMark)) =
      List.replicate n 'a' := by
    rw [List.takeWhile_append_of_pos (by intro c hc; rw [List.eq_of_mem_replicate hc]; decide)]
    simp
  have hd : (List.replicate n 'a' ++ quoteMark :: after).dropWhile (fun c => decide (c ≠ quoteMark)) =
      quoteMark :: after := by
    rw [List.dropWhile_append_of_pos (by intro c hc; rw [List.eq_of_mem_replicate hc]; decide)]
    simp
  simp only [quotedText, if_true, ht, hd, asciiBytes_letters]

theorem exists_pad_operand (n : Nat) : ∃ (operand after : List Char) (m : List Byte),
    m.length = n ∧ quotedText operand = some (m, after) ∧ blockIndex after = some 0 :=
  ⟨_, [')', '[', '0', ']'], _, List.length_replicate, quotedText_letters n _, by decide⟩

/-- The operand `pad("<text>")[0]` of a text that is out of the domain. -/
theorem witness_TooLongMessagesAreRefused_pad : ∃ (operand after : List Char) (m : List Byte),
    2 ^ 125 ≤ m.length ∧ quotedText operand = some (m, after) ∧ blockIndex after = some 0 := by
  obtain ⟨operand, after, m, h, h'⟩ := exists_pad_operand (2 ^ 125)
  exact ⟨operand, after, m, h.ge, h'⟩

/-- Both values of `dv`. -/
theorem witness_PortRenderingIsTheWordsRendering : (idleState []).dv = true ∧ State.reset.dv = false := ⟨rfl, rfl⟩

/-- The host's statements: a legal state that is busy, and an idle one; the message is in the domain. -/
theorem witness_host :
    (roundState 0#7 []).Legal ∧ lengthInDomain ([0x61, 0x62, 0x63] : List Byte).length = true ∧
    (idleState []).fsm = .idle := ⟨roundState_legal _ _ (by decide), by decide, rfl⟩

/-! ### Functions of a whole block -/

/-- The lines of P1 and P4 (30_encoding.md R84). -/
theorem test_assembler :
    assembleLine ("BLOCK pad(\"abc\")[0]   ; cmd_op=01".toList) = .ok (some (.command (.block abcBlock))) ∧
    assembleLine (".cmd 3".toList) = .ok (some (.command .reserved)) ∧
    assembleLine ("HASH \"a\"".toList) = .ok (some (.hash [0x61])) ∧
    assembleLine ("; edge 1: rst=1".toList) = .ok none ∧
    assembleLine (".cmd 2".toList) = .error .rawCodeNotThree ∧
    assembleLine ("BLOCK pad(\"abc\")[1]".toList) = .error .noSuchBlock := by decide +kernel

/-- 2.6: schedule words of "abc". -/
theorem test_schedule_of_abc :
    wordAt (schedule abcBlock) 17 = 0x00030000000000C0 ∧ wordAt (schedule abcBlock) 19 = 0x00000C0060000603 ∧
    wordAt (schedule abcBlock) 79 = 0x92AEEED1A7BCF7D2 := by decide +kernel

/-- 1.2: the digest of "abc". -/
theorem test_digest_of_abc :
    messageDigest [0x61, 0x62, 0x63] =
      #v[0xddaf35a193617aba, 0xcc417349ae204131, 0x12e6fa4e89a97ea2, 0x0a9eeee64b55d39a,
        0x2192992a274fc1a8, 0x36ba3c23a3feebbd, 0x454d4423643ce80e, 0x2a9ac94fa54ca49f] := by decide +kernel

end Sys2Proof.Machine.Slice0
end

section
/-!
PROOFS, the statements on the state (10_state.md). First the rules: which outcomes are faults, what each kind of edge
does to the invariant of the reachable states, and that `err` passes through every edge. Then each statement from them.
-/
namespace Sys2Proof.Machine

/-! ### Which outcomes are faults -/

@[simp] theorem faults_next (s : State) : ¬ Faults (.next s) := by simp [Faults]
@[simp] theorem faults_refused (r : Refusal) : ¬ Faults (.refused r) := by simp [Faults]
@[simp] theorem faults_fault (f : Fault) : Faults (.fault f) := ⟨f, rfl⟩

/-- Some entry is unwritten exactly where not all entries are written. -/
theorem exists_unwritten_iff {n : Nat} (v : Vector Bool n) :
    (∃ i : Fin n, v[i] = false) ↔ v ≠ Vector.replicate n true := by
  rw [ne_eq, Vector.ext_iff, Fin.exists_iff]
  simp

/-- 10_state.md R26, R29 and 20_memory.md R55: the three reads at which a ROUND edge faults. -/
theorem faults_roundEdge (s : State) :
    Faults (roundEdge s) ↔ s.vWritten ≠ Vector.replicate 8 true ∨ s.wwinWritten ≠ Vector.replicate 16 true ∨
      79 < s.t.toNat := by
  by_cases hv : s.vWritten = Vector.replicate 8 true
  · by_cases hw : s.wwinWritten = Vector.replicate 16 true
    · by_cases ht : s.t.toNat < 80
      · simp [roundEdge_next hv hw ht, hv, hw, Nat.le_of_lt_succ ht]
      · have ht' : 79 < s.t.toNat := by omega
        simp [roundEdge, readWorking_eq, readWindow_eq, romRead_eq, hv, hw, ht, ht']
    · simp [roundEdge, readWorking_eq, readWindow_eq, hv, hw]
  · simp [roundEdge, readWorking_eq, hv]

/-- 10_state.md R26: the read at which a FEED edge faults. -/
theorem faults_feedEdge (s : State) : Faults (feedEdge s) ↔ s.vWritten ≠ Vector.replicate 8 true := by
  by_cases hv : s.vWritten = Vector.replicate 8 true
  · simp [feedEdge_next hv, hv]
  · simp [feedEdge, readWorking_eq, hv]

/-- Where an edge that accepts nothing faults, by the controller state. -/
theorem faults_quietEdge (s : State) :
    Faults (quietEdge s) ↔
      s.fsm = .unused ∨ (s.fsm = .feed ∧ Faults (feedEdge s)) ∨ (s.fsm = .round ∧ Faults (roundEdge s)) := by
  cases hf : s.fsm <;> simp [quietEdge, hf]

/-- In IDLE no edge faults, whatever the host drives. -/
theorem idleEdge_not_faults (p : PortInput) {s : State} (hf : s.fsm = .idle) : ¬ Faults (idleEdge p s) := by
  unfold idleEdge
  split
  · exact faults_refused _
  · rw [quietEdge_idle hf]; exact faults_next _
  · unfold acceptEdge
    split
    · rw [exec_idle _ hf]; exact faults_next _
    · exact faults_refused _

/-- An edge faults exactly where, with `rst = 0`, the edge that accepts nothing does. -/
theorem faults_clockEdge (p : PortInput) (s : State) :
    Faults (clockEdge p s) ↔ p.rst = .known false ∧ Faults (quietEdge s) := by
  rcases hr : p.rst with (_ | _) | _
  · by_cases hf : s.fsm = .idle
    · have hi := idleEdge_not_faults p hf
      simp [clockEdge, hr, hf, quietEdge_idle hf, hi]
    · simp [clockEdge_busy hr hf]
  · simp [clockEdge, hr]
  · simp [clockEdge, hr]

/-! ### What keeps a state legal -/

/-- A state at rest is legal, whatever its scratch registers and their tags hold. -/
theorem legal_of_idle {s : State} (hf : s.fsm = .idle) (ht : s.t = 0) : s.Legal where
  counter := by simp [ht]
  atRest _ := ht
  written h := absurd hf h
  notValid h := absurd hf h
  threeStates := by simp [hf]

theorem resetEdge_legal (s : State) : (resetEdge s).Legal := legal_of_idle rfl rfl

theorem startBlock_legal (h : Vector Word 8) (b : Block) (s : State) : (startBlock h b s).Legal where
  counter := by simp
  atRest _ := rfl
  written _ := ⟨rfl, rfl⟩
  notValid _ := rfl
  threeStates := by simp

/-- The host's inputs are no part of the invariant. -/
theorem State.Legal.withInputs {s : State} (h : s.Legal) (ps : List PortInput) : { s with inputs := ps }.Legal :=
  ⟨h.counter, h.atRest, h.written, h.notValid, h.threeStates⟩

theorem State.Legal.dropInput {s : State} (h : s.Legal) : (dropInput s).Legal := h.withInputs _

theorem acceptEffect_legal (i : Instr) {s : State} (h : s.Legal) (hf : s.fsm = .idle) : (acceptEffect i s).Legal := by
  have ht : s.t = 0 := h.atRest (.inl hf)
  cases i with
  | init => exact legal_of_idle hf ht
  | block b => exact startBlock_legal _ b _
  | initBlock b => exact startBlock_legal _ b _
  | reserved => exact legal_of_idle hf ht

/-- A ROUND edge keeps the invariant, whatever words it writes: the counter wraps to 0 exactly where the controller
leaves ROUND (45_controller.md R231). -/
theorem nextRound_legal {s : State} (h : s.Legal) (hf : s.fsm = .round) (v : Vector Word 8) (w : Vector Word 16) :
    (nextRound (writeWindow w (writeWorking v s))).Legal where
  counter := by
    have hc := h.counter
    by_cases ht : s.t = 79#7
    · simp [ht]
    · have hn : s.t.toNat ≠ 79 := mt (counter_last s.t).mpr ht
      rw [nextRound_t, writeWindow_t, writeWorking_t, if_neg ht]
      bv_omega
  atRest := by
    by_cases ht : s.t = 79#7
    · simp [ht]
    · simp [ht, hf]
  written _ := by simp
  notValid _ := by simpa using h.notValid (by simp [hf])
  threeStates := by
    by_cases ht : s.t = 79#7
    · simp [ht]
    · simp [ht, hf]

theorem step_legal {s u : State} (h : s.Legal) (hs : step s = .next u) : u.Legal := by
  rcases step_cases hs with ⟨-, rfl⟩ | ⟨-, -, hf, i, -, rfl⟩ | ⟨-, -, -, rfl⟩ | ⟨-, -, hf, -, -, -, rfl⟩ |
    ⟨-, -, hf, -, rfl⟩
  · exact resetEdge_legal _
  · exact acceptEffect_legal i h.dropInput hf
  · exact h.dropInput
  · exact nextRound_legal h.dropInput hf _ _
  · exact legal_of_idle rfl (h.atRest (.inr hf))

/-- In a legal state every entry that an edge reads is there. -/
theorem quietEdge_not_faults_of_legal {s : State} (h : s.Legal) : ¬ Faults (quietEdge s) := by
  rw [faults_quietEdge, faults_feedEdge, faults_roundEdge]
  rintro (hf | ⟨hf, hv⟩ | ⟨hf, hr⟩)
  · exact h.threeStates hf
  · obtain ⟨hv', -⟩ := h.written (by simp [hf])
    exact hv hv'
  · obtain ⟨hv, hw⟩ := h.written (by simp [hf])
    rcases hr with hv' | hw' | ht
    · exact hv' hv
    · exact hw' hw
    · exact Nat.not_lt.mpr h.counter ht

theorem step_not_faults_of_legal {s : State} (h : s.Legal) : ¬ Faults (step s) := fun hs =>
  quietEdge_not_faults_of_legal h.dropInput ((faults_clockEdge _ _).mp hs).2

theorem run_not_faults_of_legal {s : State} (h : s.Legal) (n : Nat) : ¬ Faults (Host.Core.run core n s) := by
  induction n generalizing s with
  | zero => exact faults_next s
  | succ n ih =>
    rcases hs : step s with u | f | r
    · rw [run_next n hs]; exact ih (step_legal h hs)
    · exact absurd ⟨f, hs⟩ (step_not_faults_of_legal h)
    · rw [run_refused n hs]; exact faults_refused r

/-! ### `err` passes through every edge -/

/-- `s` with the given error bit. -/
def State.withErr (e : Bool) (s : State) : State := { s with err := e }

@[simp] theorem State.withErr_fsm (e : Bool) (s : State) : (s.withErr e).fsm = s.fsm := rfl
@[simp] theorem State.withErr_t (e : Bool) (s : State) : (s.withErr e).t = s.t := rfl
@[simp] theorem readWorking_withErr (e : Bool) (s : State) : readWorking (s.withErr e) = readWorking s := rfl
@[simp] theorem readWindow_withErr (e : Bool) (s : State) : readWindow (s.withErr e) = readWindow s := rfl
@[simp] theorem writeWorking_withErr (v : Vector Word 8) (e : Bool) (s : State) :
    writeWorking v (s.withErr e) = (writeWorking v s).withErr e := rfl
@[simp] theorem writeWindow_withErr (w : Vector Word 16) (e : Bool) (s : State) :
    writeWindow w (s.withErr e) = (writeWindow w s).withErr e := rfl

/-- The last of two changes of the error bit counts. -/
theorem mapNext_withErr_withErr (e e' : Bool) (o : Host.Outcome State Fault Refusal) :
    mapNext (State.withErr e) (mapNext (State.withErr e') o) = mapNext (State.withErr e) o := by
  cases o <;> rfl

theorem nextRound_withErr (e : Bool) (s : State) : nextRound (s.withErr e) = (nextRound s).withErr e := by
  by_cases ht : s.t = 79#7 <;> simp [nextRound, State.withErr, ht]

theorem roundEdge_withErr (e : Bool) (s : State) :
    roundEdge (s.withErr e) = mapNext (State.withErr e) (roundEdge s) := by
  simp only [roundEdge, readWorking_withErr, readWindow_withErr, State.withErr_t]
  rcases readWorking s with _ | v
  · rfl
  · rcases readWindow s with _ | w
    · rfl
    · rcases romRead s.t with _ | k
      · rfl
      · simp only [mapNext, writeWorking_withErr, writeWindow_withErr, nextRound_withErr]

theorem feedEdge_withErr (e : Bool) (s : State) :
    feedEdge (s.withErr e) = mapNext (State.withErr e) (feedEdge s) := by
  simp only [feedEdge, readWorking_withErr]
  cases readWorking s <;> rfl

theorem quietEdge_withErr (e : Bool) (s : State) :
    quietEdge (s.withErr e) = mapNext (State.withErr e) (quietEdge s) := by
  simp only [quietEdge, State.withErr_fsm]
  cases s.fsm with
  | idle => rfl
  | round => exact roundEdge_withErr e s
  | feed => exact feedEdge_withErr e s
  | unused => rfl

/-- What a command does to the other registers does not depend on `err`. -/
theorem acceptEffect_withErr (i : Instr) (e e' : Bool) (s : State) :
    (acceptEffect i (s.withErr e)).withErr e' = (acceptEffect i s).withErr e' := by
  cases i <;> rfl

theorem idleEdge_withErr (p : PortInput) (e e' : Bool) {s : State} (hf : s.fsm = .idle) :
    mapNext (State.withErr e') (idleEdge p (s.withErr e)) = mapNext (State.withErr e') (idleEdge p s) := by
  unfold idleEdge
  split
  · rfl
  · rw [quietEdge_withErr, mapNext_withErr_withErr]
  · unfold acceptEdge
    split
    · next i _ =>
      rw [exec_idle i hf, exec_idle i (s := s.withErr e) hf]
      exact congrArg Host.Outcome.next (acceptEffect_withErr i e e' s)
    · rfl

/-- Two edges from states that differ in `err` alone end alike but for `err`. -/
theorem clockEdge_withErr (p : PortInput) (e e' : Bool) (s : State) :
    mapNext (State.withErr e') (clockEdge p (s.withErr e)) = mapNext (State.withErr e') (clockEdge p s) := by
  rcases hr : p.rst with (_ | _) | _
  · by_cases hf : s.fsm = .idle
    · simpa [clockEdge, hr, hf] using idleEdge_withErr p e e' hf
    · rw [clockEdge_busy hr hf, clockEdge_busy hr (s := s.withErr e) hf, quietEdge_withErr, mapNext_withErr_withErr]
  · simp [clockEdge, hr, mapNext, resetEdge, State.withErr]
  · simp [clockEdge, hr]

/-! ### A step by what the host drives -/

/-- A reset edge takes effect in every state (45_controller.md R211). -/
theorem reset_step {s : State} (h : (nextInput s).rst = .known true) : step s = .next (resetEdge (dropInput s)) := by
  simp [step, clockEdge, h]

/-- A FEED edge that goes on (44_compression.md R195). -/
theorem feed_step {s u : State} (hr : (nextInput s).rst = .known false) (hf : s.fsm = .feed) (h : step s = .next u) :
    u = { dropInput s with H := feedForward s.H s.V, dv := true, fsm := .idle } := by
  rw [busy_step hr (by simp [hf])] at h
  rcases quietEdge_cases h with ⟨hi, -⟩ | ⟨hi, -⟩ | ⟨-, hu⟩
  · simp [hf] at hi
  · simp [hf] at hi
  · exact (feedEdge_cases hu).2

/-- The next state of a step that accepts a command. -/
theorem accepted_next {s u : State} {i : Instr} (ha : acceptedCommand s = some i) (h : step s = .next u) :
    u = acceptEffect i (dropInput s) :=
  Host.Outcome.next.inj (h.symm.trans (accepted_step ha).2)

/-- 10_state.md R21: an edge that is none of the four writers leaves `H` alone. -/
theorem step_H_of_not_writer {s u : State} (h : step s = .next u) (hr : (nextInput s).rst = .known false)
    (hf : s.fsm ≠ .feed) (hi : acceptedCommand s ≠ some .init)
    (hib : ∀ b, acceptedCommand s ≠ some (.initBlock b)) : u.H = s.H := by
  rcases step_cases h with ⟨hr', -⟩ | ⟨-, -, -, i, ha, rfl⟩ | ⟨-, -, -, rfl⟩ | ⟨-, -, -, -, -, -, rfl⟩ | ⟨-, -, hf', -⟩
  · simp [hr] at hr'
  · cases i with
    | init => exact absurd ha hi
    | block b => rfl
    | initBlock b => exact absurd ha (hib b)
    | reserved => rfl
  · rfl
  · simp
  · exact absurd hf' hf

/-- 10_state.md R37: what sets and clears `err`. -/
theorem step_err {s u : State} (h : step s = .next u) :
    u.err = true ↔ (nextInput s).rst = .known false ∧ (s.err = true ∨ acceptedCommand s = some .reserved) := by
  rcases step_cases h with ⟨hr, rfl⟩ | ⟨hr, -, -, i, ha, rfl⟩ | ⟨hr, ha, -, rfl⟩ | ⟨hr, ha, -, -, -, -, rfl⟩ |
    ⟨hr, ha, -, -, rfl⟩
  · simp [hr]
  · cases i <;> simp [hr, ha, acceptEffect]
  · simp [hr, ha]
  · simp [hr, ha]
  · simp [hr, ha]

/-! ### The statements -/

/-- Settles O22, by the kinds of edge that a step can be. -/
theorem everyStepKeepsTheStateLegal : Obligations.EveryStepKeepsTheStateLegal := fun _ _ => step_legal

/-- Settles O10: in IDLE by the effect of each command, elsewhere by what the controller does by itself. -/
theorem commandsLeaveOtherRegistersUnchanged : Obligations.CommandsLeaveOtherRegistersUnchanged := by
  intro i s u h
  by_cases hf : s.fsm = .idle
  · rw [exec_idle i hf] at h
    obtain rfl := Host.Outcome.next.inj h
    cases i with
    | init => simp [hf, acceptEffect, clearValid, loadIV]
    | block b => simp [hf, acceptEffect]
    | initBlock b => simp [hf, acceptEffect]
    | reserved => simp [hf, acceptEffect, setErr]
  · rw [exec_busy i hf] at h
    rcases quietEdge_cases h with ⟨hi, -⟩ | ⟨hr, hu⟩ | ⟨hd, hu⟩
    · exact absurd hi hf
    · obtain ⟨-, -, -, rfl⟩ := roundEdge_cases hu
      simp [hr]
    · obtain ⟨-, rfl⟩ := feedEdge_cases hu
      simp [hd]

/-- Settles O17: each writer by the step it is, and the frame by the kinds of edge that are left. -/
theorem digestStateHasFourWriters : Obligations.DigestStateHasFourWriters := by
  intro s u h
  refine ⟨fun hr => ?_, fun ha => ?_, fun b ha => ?_, fun hr hf i => ?_, step_H_of_not_writer h⟩
  · rw [reset_step hr] at h
    obtain rfl := Host.Outcome.next.inj h
    rfl
  · rw [accepted_next ha h]; rfl
  · rw [accepted_next ha h]; rfl
  · rw [feed_step hr hf h]; simp

/-- Settles O18: the events by the kinds of edge, the inertness since `err` passes through every edge. -/
theorem errIsStickyAndInert : Obligations.ErrIsStickyAndInert :=
  ⟨fun _ _ => step_err, fun s e => clockEdge_withErr (nextInput s) e false (dropInput s)⟩

/-- Settles O19, by the kinds of edge that a step can be and, at an accepting edge, by the command. -/
theorem digestValidIsSetByFeedOnly : Obligations.DigestValidIsSetByFeedOnly := by
  intro s u h
  rcases step_cases h with ⟨hr, rfl⟩ | ⟨hr, -, hf, i, ha, rfl⟩ | ⟨hr, ha, hf, rfl⟩ | ⟨hr, ha, hf, -, -, -, rfl⟩ |
    ⟨hr, ha, hf, -, rfl⟩
  · simp [hr]
  · cases i <;> simp [hr, hf, ha, acceptEffect]
  · simp [hr, ha, hf]
  · simp [hr, ha, hf]
  · simp [hr, hf]

/-- Settles O20: a step faults where the edge that accepts nothing does, and that by the entries it reads. -/
theorem stepFaultsExactlyOnUnreadableState : Obligations.StepFaultsExactlyOnUnreadableState := by
  intro s
  simp only [step, faults_clockEdge, faults_quietEdge, faults_feedEdge, faults_roundEdge, exists_unwritten_iff,
    dropInput_fsm, dropInput_vWritten, dropInput_wwinWritten, dropInput_t]

/-- Settles O53: the state after a reset edge is legal, and no run from a legal state faults. -/
theorem noRunAfterResetFaults : Obligations.NoRunAfterResetFaults :=
  fun s ps n => run_not_faults_of_legal ((resetEdge_legal s).withInputs ps) n

/-- Settles O21: after reset the controller is at rest with the counter at 0. -/
theorem resetStateIsLegal : Obligations.ResetStateIsLegal := legal_of_idle rfl rfl

end Sys2Proof.Machine
end

section
/-!
PROOFS, the statements on the encoding (30_encoding.md). First the rules: which port values decode to which command,
which bytes are a command's image, what an edge in IDLE takes, what the output ports show, how a busy block comes to
IDLE, and how a word and an operand assemble. Then each statement from them.
-/
namespace Sys2Proof.Machine

/-! ### Ports and commands -/

/-- The four opcodes (30_encoding.md R73). -/
theorem op_cases (op : Op) : op = 0b00#2 ∨ op = 0b01#2 ∨ op = 0b10#2 ∨ op = 0b11#2 := by
  revert op; decide

/-- The encoder's ports decode to the command, with any block where the command takes none. -/
theorem portEncoding (i : Instr) : Laws.PortEncoding.Statement i := by
  cases i with
  | init => exact Laws.PortEncoding.init
  | block b => exact Laws.PortEncoding.block b
  | initBlock b => exact Laws.PortEncoding.initBlock b
  | reserved => exact Laws.PortEncoding.reserved

/-- The opcode map with a known block (30_encoding.md R75), read both ways. -/
theorem decodePorts_known_eq_ok_iff {op : Op} {b : Block} {i : Instr} :
    decodePorts (.known op) (.known b) = .ok i ↔
      encodeOp i = op ∧ (encodeBlk i = .unknown ∨ encodeBlk i = .known b) := by
  constructor
  · intro h
    rcases op_cases op with rfl | rfl | rfl | rfl
    all_goals
      obtain rfl := Except.ok.inj h
      simp [encodeOp, encodeBlk]
  · rintro ⟨rfl, hb⟩
    exact (portEncoding i).2 _ (hb.imp_right Eq.symm)

/-- 30_encoding.md R74: the opcodes of INIT and the reserved command decode without the block. -/
theorem decodePorts_of_no_block {op : Pin Op} (h : op = .known 0b00#2 ∨ op = .known 0b11#2) (b b' : Pin Block) :
    decodePorts op b = decodePorts op b' := by
  rcases h with rfl | rfl <;> rfl

/-- 30_encoding.md R83: the unknown values that decoding takes. -/
theorem decodePorts_error_iff (op : Pin Op) (blk : Pin Block) :
    (∃ e, decodePorts op blk = .error e) ↔
      op = .unknown ∨ ((op = .known 0b01#2 ∨ op = .known 0b10#2) ∧ blk = .unknown) := by
  rcases op with op | _
  · rcases op_cases op with rfl | rfl | rfl | rfl
    · simp [decodePorts, decodeOp]
    · cases blk <;> simp [decodePorts, decodeOp, withBlock]
    · cases blk <;> simp [decodePorts, decodeOp, withBlock]
    · simp [decodePorts, decodeOp]
  · simp [decodePorts]

/-! ### The byte image -/

/-- 128 bytes are a whole block (20_memory.md R53). -/
theorem wholeBlockOfBytes_of_length {bs : List Byte} (h : bs.length = 128) :
    wholeBlockOfBytes bs = some (blockOfBytes bs) := by
  simp [wholeBlockOfBytes, wholeBlock, Config.blockBytes, h]

/-- Only 128 bytes are a whole block (20_memory.md R53). -/
theorem wholeBlockOfBytes_eq_some {bs : List Byte} {b : Block} (h : wholeBlockOfBytes bs = some b) :
    bs.length = 128 ∧ b = blockOfBytes bs := by
  unfold wholeBlockOfBytes at h
  split at h
  · next hw => exact ⟨by simpa [wholeBlock, Config.blockBytes] using hw, (Option.some.inj h).symm⟩
  · cases h

/-- What an image decodes to: an opcode byte, the 128 bytes of the block port, the command these ports decode to. -/
theorem decodeImage_cons {c : Byte} {blk rest : List Byte} {i : Instr} (hc : c.toNat < 4) (hl : blk.length = 128)
    (hd : decodePorts (.known (c.setWidth 2)) (.known (blockOfBytes blk)) = .ok i) :
    decodeImage (c :: (blk ++ rest)) = .ok (i, rest) := by
  simp [decodeImage, hc, List.take_left' hl, List.drop_left' hl, wholeBlockOfBytes_of_length hl, hd]

/-- Every image that decodes is one. -/
theorem decodeImage_eq_ok {bytes rest : List Byte} {i : Instr} (h : decodeImage bytes = .ok (i, rest)) :
    ∃ (c : Byte) (blk : List Byte), bytes = c :: (blk ++ rest) ∧ c.toNat < 4 ∧ blk.length = 128 ∧
      decodePorts (.known (c.setWidth 2)) (.known (blockOfBytes blk)) = .ok i := by
  unfold decodeImage at h
  split at h
  · cases h
  next c tail =>
  split at h
  next hc =>
    split at h
    · cases h
    next b hb =>
    split at h
    next j hd =>
      obtain ⟨rfl, rfl⟩ := Prod.mk.inj (Except.ok.inj h)
      obtain ⟨hl, rfl⟩ := wholeBlockOfBytes_eq_some hb
      exact ⟨c, tail.take 128, by rw [List.take_append_drop], hc, hl, hd⟩
    · cases h
  · cases h

/-- The opcode byte of a command holds its opcode and six zeros. -/
theorem encodeOp_byte (i : Instr) : ((encodeOp i).setWidth 8).toNat < 4 ∧
    ((encodeOp i).setWidth 8).setWidth 2 = encodeOp i := by
  generalize encodeOp i = op
  revert op; decide

/-- A byte below 4 is the opcode byte of its two low bits. -/
theorem setWidth_setWidth_of_lt {c : Byte} (hc : c.toNat < 4) : (c.setWidth 2).setWidth 8 = c := by
  bv_omega

/-- The command's block port in its image: the command's own block, or zeros. -/
theorem encodeImage_eq (i : Instr) : ∃ b : Block, encodeImage i = (encodeOp i).setWidth 8 :: bytesOfBlock b ∧
    (encodeBlk i = .unknown ∨ encodeBlk i = .known b) := by
  cases h : encodeBlk i with
  | known b => exact ⟨b, by simp [encodeImage, h], .inr rfl⟩
  | unknown => exact ⟨0, by simp [encodeImage, h], .inl rfl⟩

/-! ### What an edge takes from the ports -/

/-- In IDLE with `rst = 0` the command ports decide the edge (45_controller.md R211). -/
theorem clockEdge_idle {p : PortInput} {s : State} (hr : p.rst = .known false) (hf : s.fsm = .idle) :
    clockEdge p s = idleEdge p s := by
  simp [clockEdge, hr, hf]

/-- An edge in IDLE depends on `cmd_valid` and, where that is 1, on what the ports decode to. -/
theorem idleEdge_congr {p q : PortInput} (s : State) (hc : p.cmdValid = q.cmdValid)
    (hd : p.cmdValid = .known true → decodePorts p.cmdOp p.blkData = decodePorts q.cmdOp q.blkData) :
    idleEdge p s = idleEdge q s := by
  unfold idleEdge
  rw [← hc]
  split
  · rfl
  · rfl
  · next hv => simp only [acceptEdge, hd hv]

/-- 30_encoding.md R74: two edges whose inputs agree on what the edge takes. Only an edge in IDLE looks at the command
ports, and there INIT and the reserved command decode without the block. -/
theorem clockEdge_congr {p q : PortInput} {s : State} (hr : p.rst = q.rst) (hc : p.cmdValid = q.cmdValid)
    (ht : p.rst = .known false → p.cmdValid = .known true → s.fsm = .idle →
      p.cmdOp = q.cmdOp ∧ (p.cmdOp = .known 0b00#2 ∨ p.cmdOp = .known 0b11#2 ∨ p.blkData = q.blkData)) :
    clockEdge p s = clockEdge q s := by
  rcases hp : p.rst with (_ | _) | _
  · have hq : q.rst = .known false := hr.symm.trans hp
    by_cases hf : s.fsm = .idle
    · rw [clockEdge_idle hp hf, clockEdge_idle hq hf]
      refine idleEdge_congr s hc fun hv => ?_
      obtain ⟨ho, hb⟩ := ht hp hv hf
      rw [← ho]
      rcases hb with h0 | h3 | hb
      · exact decodePorts_of_no_block (.inl h0) _ _
      · exact decodePorts_of_no_block (.inr h3) _ _
      · rw [hb]
    · rw [clockEdge_busy hp hf, clockEdge_busy hq hf]
  · simp [clockEdge, hp, ← hr]
  · simp [clockEdge, hp, ← hr]

/-- An accepting edge is refused exactly where decoding is (30_encoding.md R83). -/
theorem acceptEdge_refused_iff (op : Pin Op) (blk : Pin Block) {s : State} (hf : s.fsm = .idle) :
    (∃ r, acceptEdge op blk s = .refused r) ↔ ∃ e, decodePorts op blk = .error e := by
  unfold acceptEdge
  cases decodePorts op blk with
  | ok i => simp [exec_idle i hf]
  | error e => simp

/-- Where an edge in IDLE is refused. -/
theorem idleEdge_refused_iff (p : PortInput) {s : State} (hf : s.fsm = .idle) :
    (∃ r, idleEdge p s = .refused r) ↔
      p.cmdValid = .unknown ∨ (p.cmdValid = .known true ∧ ∃ e, decodePorts p.cmdOp p.blkData = .error e) := by
  rcases hc : p.cmdValid with (_ | _) | _
  · simp [idleEdge, hc, quietEdge_idle hf]
  · simp [idleEdge, hc, acceptEdge_refused_iff _ _ hf]
  · simp [idleEdge, hc]

/-- Where an edge is refused. -/
theorem clockEdge_refused_iff (p : PortInput) (s : State) :
    (∃ r, clockEdge p s = .refused r) ↔
      p.rst = .unknown ∨ (p.rst = .known false ∧ s.fsm = .idle ∧ ∃ r, idleEdge p s = .refused r) := by
  rcases hr : p.rst with (_ | _) | _
  · by_cases hf : s.fsm = .idle
    · simp [clockEdge_idle hr hf, hf]
    · simp [clockEdge_busy hr hf, hf, quietEdge_not_refused]
  · simp [clockEdge, hr]
  · simp [clockEdge, hr]

/-! ### The status port and the digest port -/

/-- Three bits side by side. -/
theorem getElem_ofBool_append (a b c : Bool) :
    (BitVec.ofBool a ++ BitVec.ofBool b ++ BitVec.ofBool c)[2] = a ∧
    (BitVec.ofBool a ++ BitVec.ofBool b ++ BitVec.ofBool c)[1] = b ∧
    (BitVec.ofBool a ++ BitVec.ofBool b ++ BitVec.ofBool c)[0] = c := by
  revert a b c; decide

/-- The bits of the status port (30_encoding.md R81). -/
theorem status_err (s : State) : (status s)[2] = s.err := (getElem_ofBool_append _ _ _).1
theorem status_dv (s : State) : (status s)[1] = s.dv := (getElem_ofBool_append _ _ _).2.1
theorem status_busy (s : State) : (status s)[0] = busy s := (getElem_ofBool_append _ _ _).2.2

/-- A slice of a slice. -/
theorem extractLsb'_extractLsb' {w : Nat} (x : BitVec w) {start len start' len' : Nat} (h : start' + len' ≤ len) :
    (x.extractLsb' start len).extractLsb' start' len' = x.extractLsb' (start + start') len' := by
  apply BitVec.eq_of_getLsbD_eq
  intro j hj
  have : start' + j < len := by omega
  simp [hj, this, Nat.add_assoc]

/-- Word `i` of the digest port (30_encoding.md R80): the slice skips the words after it and is the word in front of
them. -/
theorem digestOfWords_word (h : Vector Word 8) (i : Fin 8) :
    (digestOfWords h).extractLsb' (448 - 64 * i.val) 64 = h[i] := by
  unfold digestOfWords
  fin_cases i
  all_goals
    simp (disch := decide) only [BitVec.extractLsb'_append_eq_of_le, BitVec.extractLsb'_append_eq_of_add_le]
    exact BitVec.extractLsb'_eq_self

/-! ### From a busy block to IDLE -/

/-- How many edges without reset a legal state is away from IDLE (45_controller.md R234). -/
def State.edgesToIdle (s : State) : Nat :=
  match s.fsm with
  | .idle => 0
  | .round => 81 - s.t.toNat
  | .feed => 1
  | .unused => 0

theorem edgesToIdle_le (s : State) : s.edgesToIdle ≤ 81 := by
  unfold State.edgesToIdle; split <;> omega

theorem edgesToIdle_idle {s : State} (hf : s.fsm = .idle) : s.edgesToIdle = 0 := by
  simp [State.edgesToIdle, hf]

theorem edgesToIdle_round {s : State} (hf : s.fsm = .round) : s.edgesToIdle = 81 - s.t.toNat := by
  simp [State.edgesToIdle, hf]

theorem edgesToIdle_feed {s : State} (hf : s.fsm = .feed) : s.edgesToIdle = 1 := by
  simp [State.edgesToIdle, hf]

/-- A ROUND edge brings the block one edge nearer to IDLE (45_controller.md R231). -/
theorem edgesToIdle_nextRound {s : State} (ht : s.t.toNat ≤ 79) (hf : s.fsm = .round) :
    s.edgesToIdle = (nextRound s).edgesToIdle + 1 := by
  rw [edgesToIdle_round hf]
  by_cases h : s.t = 79#7
  · rw [edgesToIdle_feed (by simp [h]), h]; rfl
  · have hn : s.t.toNat ≠ 79 := mt (counter_last s.t).mpr h
    rw [edgesToIdle_round (by simp [h, hf]), nextRound_t, if_neg h]
    bv_omega

/-- Every edge of a busy legal block goes on, to a legal state one edge nearer to IDLE. -/
theorem quietEdge_nears_idle {s : State} (h : s.Legal) (hf : s.fsm ≠ .idle) :
    ∃ u, quietEdge s = .next u ∧ u.Legal ∧ s.edgesToIdle = u.edgesToIdle + 1 := by
  obtain ⟨hv, hw⟩ := h.written hf
  have ht := h.counter
  cases hs : s.fsm with
  | idle => exact absurd hs hf
  | round =>
    refine ⟨_, quietEdge_round hs hv hw (by omega), nextRound_legal h hs _ _, ?_⟩
    exact edgesToIdle_nextRound (s := writeWindow _ (writeWorking _ s)) ht hs
  | feed =>
    refine ⟨_, quietEdge_feed hs hv, legal_of_idle rfl (h.atRest (.inr hs)), ?_⟩
    rw [edgesToIdle_feed hs, edgesToIdle_idle rfl]
  | unused => exact absurd hs h.threeStates

/-- While the block is busy a command line takes edges and stays first (30_encoding.md R84). -/
theorem hostMove_command_busy {r : HostRun} {i : Instr} {rest : List HostLine} {u : State}
    (ht : r.todo = .command i :: rest) (hf : r.block.fsm ≠ .idle) (hu : quietEdge r.block = .next u) :
    hostMove r = .next { r with block := u, edges := r.edges + 1 } := by
  have he : clockEdge (offer i) r.block = .next u := (clockEdge_busy rfl hf).trans hu
  simp [hostMove, ht, hostEdge, he, cmdReady, hf]

/-- In IDLE a command line is carried out by one edge (30_encoding.md R84). -/
theorem hostMove_command_idle {r : HostRun} {i : Instr} {rest : List HostLine}
    (ht : r.todo = .command i :: rest) (hf : r.block.fsm = .idle) :
    hostMove r = .next { r with block := acceptEffect i r.block, todo := rest, edges := r.edges + 1 } := by
  simp [hostMove, ht, hostEdge, offer_accept i hf, exec_idle i hf, cmdReady, hf]

/-- A command line waits for IDLE as many edges as the block is away from it. -/
theorem hostMoves_command_to_idle {n : Nat} {r : HostRun} {i : Instr} {rest : List HostLine}
    (ht : r.todo = .command i :: rest) (h : r.block.Legal) (hn : r.block.edgesToIdle = n) :
    ∃ q, hostMoves n r = .next q ∧ q.todo = .command i :: rest ∧ q.edges = r.edges + n ∧ q.block.fsm = .idle := by
  induction n generalizing r with
  | zero =>
    refine ⟨r, rfl, ht, rfl, ?_⟩
    by_contra hf
    obtain ⟨u, -, -, hu⟩ := quietEdge_nears_idle h hf
    omega
  | succ n ih =>
    have hf : r.block.fsm ≠ .idle := fun hf => by simp [edgesToIdle_idle hf] at hn
    obtain ⟨u, hu, hl, he⟩ := quietEdge_nears_idle h hf
    obtain ⟨q, hq, hqt, hqe, hqf⟩ := ih (r := { r with block := u, edges := r.edges + 1 }) ht hl (by simp; omega)
    exact ⟨q, (hostMoves_succ n (hostMove_command_busy ht hf hu)).trans hq, hqt, by rw [hqe]; simp; omega, hqf⟩

/-! ### Written lines -/

/-- The two hex digits of a byte, as a line writes them (30_encoding.md R84). -/
def hexByte (x : Byte) : List Char := [hexDigit (x.extractLsb' 4 4), hexDigit (x.extractLsb' 0 4)]

theorem hexValue_hexDigit (d : BitVec 4) : hexValue (hexDigit d) = some d.toNat := by
  revert d; decide

/-- A byte is its two hex digits. -/
theorem ofNat_hexDigits (x : Byte) :
    BitVec.ofNat 8 (16 * (x.extractLsb' 4 4).toNat + (x.extractLsb' 0 4).toNat) = x := by
  apply BitVec.eq_of_toNat_eq
  have := x.isLt
  simp only [BitVec.extractLsb'_toNat, BitVec.toNat_ofNat, Nat.shiftRight_eq_div_pow]
  omega

/-- One more byte in front of hex digits. -/
theorem hexBytes_hexByte_append (x : Byte) {cs : List Char} {bs : List Byte} (h : hexBytes cs = some bs) :
    hexBytes (hexByte x ++ cs) = some (x :: bs) := by
  simp only [hexByte, List.cons_append, List.nil_append, hexBytes, hexValue_hexDigit, h, ofNat_hexDigits]

/-- The hex digits of bytes are read back as these bytes. -/
theorem hexBytes_flatMap_hexByte (bs : List Byte) : hexBytes (bs.flatMap hexByte) = some bs := by
  induction bs with
  | nil => rfl
  | cons x bs ih => exact hexBytes_hexByte_append x ih

/-- No hex digit ends a word, starts a comment or starts `pad(`. -/
theorem hexDigit_ne (d : BitVec 4) : hexDigit d ≠ ' ' ∧ hexDigit d ≠ ';' ∧ hexDigit d ≠ 'p' := by
  revert d; decide

theorem ne_of_mem_flatMap_hexByte {bs : List Byte} {c : Char} (h : c ∈ bs.flatMap hexByte) :
    c ≠ ' ' ∧ c ≠ ';' ∧ c ≠ 'p' := by
  obtain ⟨x, -, hc⟩ := List.mem_flatMap.mp h
  simp only [hexByte, List.mem_cons, List.not_mem_nil, or_false] at hc
  rcases hc with rfl | rfl
  · exact hexDigit_ne _
  · exact hexDigit_ne _

/-- 256 hex digits are the operand of a compressing command (30_encoding.md R84). -/
theorem blockOperand_hex {cs : List Char} {bs : List Byte} (hp : ∀ c ∈ cs, c ≠ 'p') (hx : hexBytes cs = some bs)
    (hl : bs.length = 128) : blockOperand cs = .ok (blockOfBytes bs) := by
  unfold blockOperand
  split
  · exact absurd rfl (hp 'p' List.mem_cons_self)
  · simp [hx, wholeBlockOfBytes_of_length hl]

/-- A line without a semicolon has no comment. -/
theorem stripComment_eq_self {cs : List Char} (h : ∀ c ∈ cs, c ≠ ';') : stripComment cs = cs :=
  List.takeWhile_eq_self_iff.mpr (by simpa using h)

/-- A text that does not begin with a space has none to drop. -/
theorem dropWhile_space_eq_self {cs : List Char} (h : cs.head? ≠ some ' ') :
    (cs.dropWhile fun c => c = ' ') = cs := by
  cases cs with
  | nil => rfl
  | cons c cs => exact List.dropWhile_cons_of_neg (by simpa using h)

/-- A text that neither begins nor ends with a space is trimmed already. -/
theorem trimSpaces_eq_self {cs : List Char} (h : cs.head? ≠ some ' ') (h' : cs.getLast? ≠ some ' ') :
    trimSpaces cs = cs := by
  rw [trimSpaces, dropWhile_space_eq_self h, dropWhile_space_eq_self (by simpa using h'), List.reverse_reverse]

/-- A word and an operand with one space between them. -/
theorem splitWord_append {word operand : List Char} (hw : ∀ c ∈ word, c ≠ ' ') (ho : ∀ c ∈ operand, c ≠ ' ') :
    splitWord (word ++ ' ' :: operand) = (word, operand) := by
  have hp : ∀ c ∈ word, decide (c ≠ ' ') = true := by simpa using hw
  have ht : trimSpaces (' ' :: operand) = trimSpaces operand := by simp [trimSpaces]
  have hs : trimSpaces operand = operand :=
    trimSpaces_eq_self (fun h => ho ' ' (List.mem_of_head? h) rfl) (fun h => ho ' ' (List.mem_of_getLast? h) rfl)
  simp only [splitWord, List.takeWhile_append_of_pos hp, List.dropWhile_append_of_pos hp]
  simp [ht, hs]

/-- A line of a word, a space and an operand stands for what the two stand for. -/
theorem assembleLine_word_operand {word operand : List Char} {l : HostLine}
    (hw : ∀ c ∈ word, c ≠ ' ' ∧ c ≠ ';') (ho : ∀ c ∈ operand, c ≠ ' ' ∧ c ≠ ';')
    (hw' : word ≠ []) (ho' : operand ≠ []) (hl : lineOf word operand = .ok l) : assembleLine (word ++ ' ' :: operand) = .ok (some l) := by
  have hc : stripComment (word ++ ' ' :: operand) = word ++ ' ' :: operand :=
    stripComment_eq_self (by
      simp only [List.mem_append, List.mem_cons]
      rintro c (h | rfl | h)
      · exact (hw c h).2
      · decide
      · exact (ho c h).2)
  have ht : trimSpaces (word ++ ' ' :: operand) = word ++ ' ' :: operand := by
    apply trimSpaces_eq_self
    · rw [List.head?_append_of_ne_nil _ hw']
      exact fun h => (hw ' ' (List.mem_of_head? h)).1 rfl
    · rw [List.getLast?_append_of_ne_nil _ (List.cons_ne_nil _ _), List.getLast?_cons_of_ne_nil ho']
      exact fun h => (ho ' ' (List.mem_of_getLast? h)).1 rfl
  have hs := splitWord_append (fun c h => (hw c h).1) (fun c h => (ho c h).1)
  unfold assembleLine
  rw [hc, ht]
  split
  · next he => simp at he
  · next c cs he => simp [← he, hs, hl]

/-- A line of a compressing command's word and a block's hex digits. -/
theorem assembleLine_hex {word : List Char} {command : Block → Instr} (hw : ∀ c ∈ word, c ≠ ' ' ∧ c ≠ ';')
    (hw' : word ≠ []) (hl : ∀ operand, lineOf word operand = blockLine command operand) (b : Block) :
    assembleLine (word ++ ' ' :: (bytesOfBlock b).flatMap hexByte) = .ok (some (.command (command b))) := by
  have hx := hexBytes_flatMap_hexByte (bytesOfBlock b)
  have hb : blockOperand ((bytesOfBlock b).flatMap hexByte) = .ok b := by
    rw [blockOperand_hex (fun c h => (ne_of_mem_flatMap_hexByte h).2.2) hx (bytesOfBlock_length b),
      blockOfBytes_bytesOfBlock]
  refine assembleLine_word_operand hw (fun c h => ?_) hw' (fun h => ?_) (by rw [hl, blockLine, hb])
  · obtain ⟨h1, h2, -⟩ := ne_of_mem_flatMap_hexByte h
    exact ⟨h1, h2⟩
  · rw [h] at hx
    have := bytesOfBlock_length b
    simp [← Option.some.inj hx] at this

/-! ### The statements -/

/-- Settles O29: the image is an opcode byte and the 128 bytes of a block port that the opcode decodes with. -/
theorem commandImageRoundTrip : Obligations.CommandImageRoundTrip := by
  intro i rest _
  obtain ⟨b, hi, hb⟩ := encodeImage_eq i
  obtain ⟨hc, ho⟩ := encodeOp_byte i
  rw [hi, List.cons_append]
  refine decodeImage_cons hc (bytesOfBlock_length b) ?_
  rw [ho, blockOfBytes_bytesOfBlock]
  exact decodePorts_known_eq_ok_iff.mpr ⟨rfl, hb⟩

/-- Settles O15: an edge depends on no more of its inputs than it takes. -/
theorem untakenInputsHaveNoEffect : Obligations.UntakenInputsHaveNoEffect := by
  intro s p q rest hr hc ht
  exact clockEdge_congr (s := { s with inputs := rest }) hr hc ht

/-- Settles O16, from where an edge, an edge in IDLE and decoding refuse. -/
theorem unknownInputsRefuseExactlyWhereTaken : Obligations.UnknownInputsRefuseExactlyWhereTaken := by
  intro s p rest hs
  rw [step_cons hs, clockEdge_refused_iff]
  refine or_congr_right (and_congr_right fun _ => and_congr_right fun hf => ?_)
  rw [idleEdge_refused_iff p hf, decodePorts_error_iff]

/-- Settles O30: the opcode byte of an image that decodes is the command's, and so is a block that the command takes. -/
theorem decodedImageIsTheCommandsImage : Obligations.DecodedImageIsTheCommandsImage := by
  intro bytes rest i h
  obtain ⟨c, blk, rfl, hc, hl, hd⟩ := decodeImage_eq_ok h
  obtain ⟨ho, hb⟩ := decodePorts_known_eq_ok_iff.mp hd
  refine ⟨blk, hl, by rw [ho, setWidth_setWidth_of_lt hc], fun b hi => ?_⟩
  rw [hi] at hb
  obtain rfl : b = blockOfBytes blk := by simpa using hb
  exact (bytesOfBlock_blockOfBytes blk hl).symm

/-- Settles O42: the words are the slices of the port, and byte `k` is a slice of word `k / 8`. -/
theorem digestPortShowsTheDigestState : Obligations.DigestPortShowsTheDigestState := by
  intro s
  refine ⟨digestOfWords_word s.H, fun k => ?_⟩
  have hw : (digest s).extractLsb' (448 - 64 * (k.val / 8)) 64 = s.H[k.val / 8] :=
    digestOfWords_word s.H ⟨k.val / 8, by omega⟩
  rw [← hw, extractLsb'_extractLsb' _ (by omega)]
  congr 1
  omega

/-- Settles O48: the command waits until the block has come to IDLE, and the next edge carries it out. -/
theorem hostCommandIsAcceptedInTime : Obligations.HostCommandIsAcceptedInTime := by
  intro s i rest h
  obtain ⟨q, hq, ht, he, hf⟩ :=
    hostMoves_command_to_idle (r := hostStart s (.command i :: rest)) (i := i) (rest := rest) rfl h rfl
  have he' : q.edges = s.edgesToIdle := he.trans (Nat.zero_add _)
  refine ⟨s.edgesToIdle, q, { q with block := acceptEffect i q.block, todo := rest, edges := q.edges + 1 },
    edgesToIdle_le s, hq, ht, he', hf, ?_, rfl, congrArg (· + 1) he', exec_idle i hf⟩
  exact (hostMoves_add 1 hq).trans (hostMoves_succ 0 (hostMove_command_idle ht hf))

/-- Settles O50: each word with a block's hex digits, which are read back as the block's bytes. -/
theorem hexBlockLinesAssemble : Obligations.HexBlockLinesAssemble := fun b =>
  ⟨assembleLine_hex (word := ['B', 'L', 'O', 'C', 'K']) (by simp) (by simp) (by simp [lineOf]) b,
   assembleLine_hex (word := ['I', 'N', 'I', 'T', '_', 'B', 'L', 'O', 'C', 'K']) (by simp) (by simp)
    (by simp [lineOf]) b⟩

/-- Settles O28: each code by the map, and every code is one of the four. -/
theorem opcodeMapIsComplete : Obligations.OpcodeMapIsComplete := by
  refine ⟨fun b => ⟨rfl, rfl, rfl, rfl⟩, fun op b => ?_⟩
  rcases op_cases op with rfl | rfl | rfl | rfl
  · exact ⟨.init, rfl, rfl⟩
  · exact ⟨.block b, rfl, rfl⟩
  · exact ⟨.initBlock b, rfl, rfl⟩
  · exact ⟨.reserved, rfl, rfl⟩

/-- Settles O31, by decoding the four words. -/
theorem tableWordsDecode : Obligations.TableWordsDecode := by
  unfold Obligations.TableWordsDecode
  decide +kernel

/-- Settles O41: the status port is its three bits side by side, and `busy` is the complement of `cmd_ready`. -/
theorem readyAndStatusBits : Obligations.ReadyAndStatusBits := by
  intro s
  simp [status_err, status_dv, status_busy, cmdReady, busy]

end Sys2Proof.Machine
end

section
/-!
PROOFS. The bit primitives (40_bit_primitives.md): `rotr` moves bit `(i + n) mod 64` to place `i` (R100, R101), so it
permutes the bits, and `shr` moves bit `i + n` to place `i` (R102).
-/
namespace Sys2Proof.Machine

/-! ### Rotation -/

/-- The model's rotation is the library's. -/
theorem rotr_eq_rotateRight (x : Word) (n : Nat) : rotr x n = x.rotateRight n := rfl

/-- Bit `i` of a rotation (R100): below `64 - n mod 64` it comes from the right shift, above from the left shift. -/
theorem getLsbD_rotr (x : Word) (n : Nat) {i : Nat} (hi : i < 64) :
    (rotr x n).getLsbD i = x.getLsbD ((i + n) % 64) := by
  rw [rotr_eq_rotateRight, BitVec.getLsbD_rotateRight, Bool.cond_decide]
  split
  · next h => congr 1; omega
  · next h =>
    rw [decide_eq_true hi, Bool.true_and]
    congr 1; omega

theorem rotr_mod (x : Word) (n : Nat) : rotr x n = rotr x (n % 64) := by
  simp [rotr]

theorem rotr_eq_shift_or (x : Word) {n : Nat} (hn : n < 64) : rotr x n = (x >>> n) ||| (x <<< (64 - n)) := by
  rw [rotr, Nat.mod_eq_of_lt hn]

@[simp] theorem rotr_amount_zero (x : Word) : rotr x 0 = x := by
  simp [rotr]

@[simp] theorem rotr_zero (n : Nat) : rotr 0#64 n = 0#64 := by
  simp [rotr]

theorem rotr_allOnes (n : Nat) : rotr (BitVec.allOnes 64) n = BitVec.allOnes 64 := by
  apply BitVec.eq_of_getLsbD_eq
  intro i hi
  have hm : (i + n) % 64 < 64 := Nat.mod_lt _ (by decide)
  rw [getLsbD_rotr _ n hi, BitVec.getLsbD_allOnes, BitVec.getLsbD_allOnes, decide_eq_true hm, decide_eq_true hi]

/-- The places that the bits of a rotation come from are the 64 places, rotated. -/
theorem map_add_mod_range (n k : Nat) : (List.range k).map (fun i => (i + n) % k) = (List.range k).rotate n := by
  apply List.ext_getElem
  · simp
  · intro i _ _
    simp [List.getElem_rotate]

/-- Rotation keeps the number of 1 bits (R100): the rotation's bits are the word's bits in a permuted order. -/
theorem countP_getLsbD_rotr (x : Word) (n : Nat) :
    (List.range 64).countP (rotr x n).getLsbD = (List.range 64).countP x.getLsbD :=
  calc (List.range 64).countP (rotr x n).getLsbD
    _ = (List.range 64).countP (x.getLsbD ∘ fun i => (i + n) % 64) :=
        List.countP_congr fun i hi => by simp [getLsbD_rotr x n (List.mem_range.mp hi)]
    _ = ((List.range 64).rotate n).countP x.getLsbD := by rw [← List.countP_map, map_add_mod_range]
    _ = (List.range 64).countP x.getLsbD := (List.rotate_perm _ n).countP_eq _

/-! ### Shift -/

/-- Bit `i` of a right shift (R102): the top `n` places are filled with zeros. -/
theorem getLsbD_shr (x : Word) (n i : Nat) :
    (shr x n).getLsbD i = if i + n ≤ 63 then x.getLsbD (i + n) else false := by
  rw [shr, BitVec.getLsbD_ushiftRight, Nat.add_comm n i]
  split
  · rfl
  · next h => exact BitVec.getLsbD_of_ge x _ (by omega)

/-! ### The statements -/

/-- Settles O34: each clause is a fact about `rotr` above; the example is evaluated. -/
theorem rotrMovesEveryBit : Obligations.RotrMovesEveryBit :=
  ⟨fun x n _ hi => getLsbD_rotr x n hi, fun x _ _ hn => rotr_eq_shift_or x (Nat.lt_succ_of_le hn),
   fun n => ⟨rotr_zero n, rotr_allOnes n⟩, countP_getLsbD_rotr, by decide, rotr_mod, rotr_amount_zero⟩

/-- Settles O35: the bits of a right shift, and the corner cases and the example evaluated. -/
theorem shrIsALogicalShift : Obligations.ShrIsALogicalShift :=
  ⟨fun x n i _ => getLsbD_shr x n i, by decide, by decide, by decide, by decide⟩

end Sys2Proof.Machine
end

section
/-!
PROOFS, the host's padder (41_host_padding.md). First the big-endian encoding of the trailer (00_scope.md R14), then what
the padded buffer holds at each place and how long it is (R121 to R124), then its blocks (R130) and the refusal of R128.
-/
namespace Sys2Proof.Machine

/-! ### The big-endian encoding -/

@[simp] theorem bytesBE_length (v n : Nat) : (bytesBE v n).length = n := by simp [bytesBE]

/-- Byte `k` of the encoding is digit `n - 1 - k` of the value to base 256. -/
theorem bytesBE_getElem? (v : Nat) {n k : Nat} (hk : k < n) :
    (bytesBE v n)[k]? = some (BitVec.ofNat 8 (v / 256 ^ (n - 1 - k))) := by
  have hpow : 2 ^ (8 * (n - 1 - k)) = 256 ^ (n - 1 - k) := pow_mul 2 8 _
  simp [bytesBE, hk, Nat.shiftRight_eq_div_pow, hpow]

/-- The first `k` bytes of the encoding, read as a number, are the value without its low `n - k` bytes. -/
theorem foldl_bytesBE {v n k : Nat} (hv : v < 256 ^ n) (hk : k ≤ n) :
    (List.range k).foldl (fun acc j => 256 * acc + ((bytesBE v n)[j]?.getD 0).toNat) 0 = v / 256 ^ (n - k) := by
  induction k with
  | zero => exact (Nat.div_eq_of_lt hv).symm
  | succ k ih =>
    have hq : n - k = n - 1 - k + 1 := by omega
    have hq' : n - (k + 1) = n - 1 - k := by omega
    simp only [List.range_succ, List.foldl_append, List.foldl_cons, List.foldl_nil, ih (by omega),
      bytesBE_getElem? v (Nat.lt_of_succ_le hk), Option.getD_some, BitVec.toNat_ofNat]
    rw [hq, hq', pow_succ, ← Nat.div_div_eq_div_mul]
    exact Nat.div_add_mod _ 256

/-! ### The places of the padded buffer -/

theorem pad_length (m : List Byte) : (pad m).length = m.length + 1 + zeroBytes m.length + 16 := by
  simp only [pad, List.length_append, List.length_singleton, List.length_replicate, bytesBE_length]

theorem pad_take_length (m : List Byte) : (pad m).take m.length = m := by
  simp [pad]

theorem pad_getElem?_length (m : List Byte) : (pad m)[m.length]? = some 0x80 := by
  simp [pad]

theorem pad_getElem?_zeros {m : List Byte} {j : Nat} (h : m.length + 1 ≤ j)
    (h' : j < m.length + 1 + zeroBytes m.length) : (pad m)[j]? = some 0x00 := by
  rw [pad, List.getElem?_append_left (by simp; omega), List.getElem?_append_right (by simpa using h)]
  exact List.getElem?_replicate_of_lt (by simp; omega)

theorem pad_getElem?_trailer (m : List Byte) (k : Nat) :
    (pad m)[m.length + 1 + zeroBytes m.length + k]? = (bytesBE (8 * m.length) 16)[k]? := by
  rw [pad, List.getElem?_append_right (by simp; omega)]
  congr 1
  simp; omega

/-- 41_host_padding.md R127: the number of blocks, each of 128 bytes. -/
theorem pad_length_eq_blocks (m : List Byte) : (pad m).length = 128 * ((m.length + 17 + 127) / 128) := by
  rw [pad_length, zeroBytes]
  omega

/-! ### The blocks of a buffer -/

/-- The bytes of block `k` are the slice of the buffer it is made of. -/
theorem bytesOfBlock_blockAt {p : List Byte} {k : Nat} (h : 128 * k + 128 ≤ p.length) :
    bytesOfBlock (blockAt p k) = (p.drop (128 * k)).take 128 :=
  bytesOfBlock_blockOfBytes _ (by simp [Config.blockBytes]; omega)

/-- The first `n` blocks hold the first `128 n` bytes of the buffer. -/
theorem flatMap_bytesOfBlock_blockAt {p : List Byte} {n : Nat} (h : 128 * n ≤ p.length) :
    ((List.range n).map (blockAt p)).flatMap bytesOfBlock = p.take (128 * n) := by
  induction n with
  | zero => simp
  | succ n ih =>
    rw [List.range_succ, List.map_append, List.flatMap_append, ih (by omega), Nat.mul_succ, List.take_add]
    simp [bytesOfBlock_blockAt (p := p) (k := n) (by omega)]

@[simp] theorem blocksOf_length (p : List Byte) : (blocksOf p).length = p.length / 128 := by
  simp [blocksOf, Config.blockBytes]

/-- 41_host_padding.md R130: a buffer of whole blocks is the bytes of its blocks, block 0 first. -/
theorem blocksOf_flatMap_bytesOfBlock {p : List Byte} (h : 128 ∣ p.length) :
    (blocksOf p).flatMap bytesOfBlock = p := by
  have hn : 128 * (p.length / 128) = p.length := Nat.mul_div_cancel' h
  have hp := flatMap_bytesOfBlock_blockAt hn.le
  rwa [hn, List.take_length] at hp

/-! ### The domain of the padder -/

theorem lengthInDomain_iff (L : Nat) : lengthInDomain L = true ↔ L < 2 ^ 125 := by
  rw [lengthInDomain, decide_eq_true_iff, Config.lenFieldBits]
  omega

theorem lengthInDomain_eq_false {L : Nat} (h : 2 ^ 125 ≤ L) : lengthInDomain L = false :=
  Bool.eq_false_iff.mpr fun hd => Nat.not_lt.mpr h ((lengthInDomain_iff L).mp hd)

/-- The expansion of HASH is refused where the message has no blocks. -/
theorem hashLines_refused {m : List Byte} (h : paddedBlocks m = none) : hashLines m = .error .lengthOutOfDomain := by
  simp [hashLines, h]

theorem hostMove_hash_refused {r : HostRun} {m : List Byte} {rest : List HostLine} {e : Refusal}
    (ht : r.todo = .hash m :: rest) (h : hashLines m = .error e) : hostMove r = .refused e := by
  simp [hostMove, ht, h]

/-- `pad("<text>")[k]` is refused where the text has no blocks, whatever `k` is. -/
theorem paddedBlock_refused {cs after : List Char} {m : List Byte} {k : Nat} (hq : quotedText cs = some (m, after))
    (hk : blockIndex after = some k) (h : paddedBlocks m = none) : paddedBlock cs = .error .lengthOutOfDomain := by
  simp [paddedBlock, hq, hk, h]

theorem blockLine_pad_error {cs : List Char} {e : LineRefusal} (command : Block → Instr)
    (h : paddedBlock cs = .error e) : blockLine command ('p' :: 'a' :: 'd' :: '(' :: cs) = .error e := by
  simp [blockLine, blockOperand, h]

/-! ### The statements -/

/-- Settles O44: the four parts of the buffer place by place, and the trailer read as a number. -/
theorem paddedBufferContents : Obligations.PaddedBufferContents := by
  intro m hd
  have hv : 8 * m.length < 256 ^ 16 := by
    have := (lengthInDomain_iff _).mp hd
    omega
  refine ⟨pad_take_length m, pad_getElem?_length m, fun j => pad_getElem?_zeros, pad_length m, fun k hk => ?_, ?_⟩
  · rw [pad_getElem?_trailer, bytesBE_getElem? _ hk]
  · simp only [pad_getElem?_trailer]
    exact (foldl_bytesBE hv le_rfl).trans (Nat.div_one _)

/-- Settles O45: the padded buffer is a whole number of blocks. -/
theorem blocksOfAPaddedBufferAreTheBuffer : Obligations.BlocksOfAPaddedBufferAreTheBuffer := fun m =>
  ⟨blocksOf_flatMap_bytesOfBlock ⟨_, pad_length_eq_blocks m⟩, blocksOf_length (pad m)⟩

/-- Settles O43, from the length as a number of blocks. -/
theorem paddedLengthIsTheSmallestWholeNumberOfBlocks :
    Obligations.PaddedLengthIsTheSmallestWholeNumberOfBlocks := by
  intro m
  rw [pad_length_eq_blocks m]
  refine ⟨?_, ?_, ?_, ?_, ?_, ?_, fun k hk => ?_⟩ <;> omega

/-- Settles O46: outside the domain there are no blocks, and each of the three refuses where there are none. -/
theorem tooLongMessagesAreRefused : Obligations.TooLongMessagesAreRefused := by
  intro m s rest hm
  have hb : paddedBlocks m = none := paddedBlocks_out (lengthInDomain_eq_false hm)
  have hl := hashLines_refused hb
  exact ⟨hl, hostMove_hash_refused rfl hl, fun operand after k command hq hk =>
    blockLine_pad_error command (paddedBlock_refused hq hk hb)⟩

end Sys2Proof.Machine
end

section
/-!
PROOFS, the message schedule (42_message_schedule.md). First the schedule as a list of words (R142, R143) and the mixing
functions bit by bit (R140, R141), then the window (R146 to R149) and the registers during a block, which the ROUND
edges keep in step with the normative functions. Then each statement from them.
-/
namespace Sys2Proof.Machine

/-! ### The words of the schedule -/

theorem schedule_length (b : Block) : (schedule b).length = 80 := scheduleTo_length b 64

/-- A word that a part of the schedule has is the schedule's word. -/
theorem wordAt_scheduleTo_eq_schedule (b : Block) {n j : Nat} (hn : n ≤ 64) (hj : j < 16 + n) :
    wordAt (scheduleTo b n) j = wordAt (schedule b) j := by
  rw [schedule, ← wordAt_scheduleTo b n (64 - n) j hj, Nat.add_sub_cancel' hn]

/-- 42_message_schedule.md R143: the word that is appended, and the words it is made of, are the schedule's. -/
theorem wordAt_schedule_recurrence (b : Block) {i : Nat} (hi : 16 ≤ i) (hi' : i < 80) :
    wordAt (schedule b) i =
      wordAt (schedule b) (i - 16) + sigma0 (wordAt (schedule b) (i - 15)) + wordAt (schedule b) (i - 7) +
        sigma1 (wordAt (schedule b) (i - 2)) := by
  obtain ⟨n, rfl⟩ := Nat.exists_eq_add_of_le hi
  have hpart : ∀ j, j < 16 + n → wordAt (scheduleTo b n) j = wordAt (schedule b) j := fun j =>
    wordAt_scheduleTo_eq_schedule b (by omega)
  rw [← wordAt_scheduleTo_eq_schedule b (n := n + 1) (by omega) (by omega), scheduleTo,
    ← hpart (16 + n - 16) (by omega), ← hpart (16 + n - 15) (by omega), ← hpart (16 + n - 7) (by omega),
    ← hpart (16 + n - 2) (by omega), ← scheduleTo_length b n]
  exact wordAt_extend_last _

/-! ### The bytes of a message word -/

/-- 42_message_schedule.md R142: word `t` of a block is its bytes from `8t` on, the first in the top bits. -/
theorem blockWord_eq_bytes (b : Block) {t : Nat} (ht : t < 16) :
    blockWord b t =
      blockByte b (8 * t) ++ blockByte b (8 * t + 1) ++ blockByte b (8 * t + 2) ++ blockByte b (8 * t + 3) ++
      blockByte b (8 * t + 4) ++ blockByte b (8 * t + 5) ++ blockByte b (8 * t + 6) ++ blockByte b (8 * t + 7) := by
  have hlast : 1016 - 8 * (8 * t + 7) = 960 - 64 * t := by omega
  simp only [blockWord, blockByte]
  repeat rw [BitVec.extractLsb'_append_extractLsb'_eq_extractLsb' (by omega)]
  rw [hlast]

/-! ### The mixing functions -/

/-- Bit `i` of `sigma0` (42_message_schedule.md R140). -/
theorem getLsbD_sigma0 (x : Word) {i : Nat} (hi : i < 64) :
    (sigma0 x).getLsbD i =
      ((x.getLsbD ((i + 1) % 64) ^^ x.getLsbD ((i + 8) % 64)) ^^ (decide (i + 7 ≤ 63) && x.getLsbD (i + 7))) := by
  simp [sigma0, getLsbD_rotr _ _ hi, getLsbD_shr]

/-- Bit `i` of `sigma1` (42_message_schedule.md R141). -/
theorem getLsbD_sigma1 (x : Word) {i : Nat} (hi : i < 64) :
    (sigma1 x).getLsbD i =
      ((x.getLsbD ((i + 19) % 64) ^^ x.getLsbD ((i + 61) % 64)) ^^ (decide (i + 6 ≤ 63) && x.getLsbD (i + 6))) := by
  simp [sigma1, getLsbD_rotr _ _ hi, getLsbD_shr]

/-! ### The window -/

/-- The window holds the schedule from word `k` on, as far as the schedule goes (42_message_schedule.md R149). -/
def HoldsSchedule (b : Block) (k : Nat) (w : Vector Word 16) : Prop :=
  ∀ (j : Nat) (hj : j < 16), k + j ≤ 79 → w[j] = wordAt (schedule b) (k + j)

/-- The acceptance edge loads the message words (42_message_schedule.md R146). -/
theorem holdsSchedule_blockWords (b : Block) : HoldsSchedule b 0 (blockWords b) := by
  intro j hj _
  rw [blockWords_get b j hj, Nat.zero_add, wordAt_schedule_msg b j hj]

/-- While a word is still to come, the expander computes it (42_message_schedule.md R147). -/
theorem HoldsSchedule.windowNew_eq {b : Block} {k : Nat} {w : Vector Word 16} (h : HoldsSchedule b k w) (hk : k < 64) :
    windowNew w = wordAt (schedule b) (k + 16) := by
  rw [wordAt_schedule_recurrence b (by omega) (by omega), windowNew, h 0 _ (by omega), h 1 _ (by omega),
    h 9 _ (by omega), h 14 _ (by omega)]
  rfl

/-- The window shift moves on by one word (42_message_schedule.md R148): the entries move down, and the last one is the
expander's. -/
theorem HoldsSchedule.shift {b : Block} {k : Nat} {w : Vector Word 16} (h : HoldsSchedule b k w) :
    HoldsSchedule b (k + 1) (shiftWindow w) := by
  intro j hj hjk
  rw [shiftWindow_get w j hj]
  split
  · rw [h (j + 1) _ (by omega)]
    congr 1; omega
  · rw [h.windowNew_eq (by omega)]
    congr 1; omega

/-! ### The registers during a block -/

/-- What holds in `u` when `s` accepted the block `b`, its working variables starting from `h`, and `k` ROUND edges
followed (42_message_schedule.md R149, 44_compression.md R193, R194). -/
structure DuringBlock (s : State) (b : Block) (h : Vector Word 8) (k : Nat) (u : State) : Prop where
  legal : u.Legal
  fsm : u.fsm = .round
  counter : u.t.toNat = k
  working : u.V = workAfter h (schedule b) k
  window : HoldsSchedule b k u.Wwin
  digestState : u.H = h
  err : u.err = s.err
  inputs : u.inputs = s.inputs.drop (k + 1)

/-- The start of a block whose digest state is `h` (45_controller.md R223, R226). -/
theorem startBlock_duringBlock {s v : State} (b : Block) {h : Vector Word 8} (hH : v.H = h) (he : v.err = s.err)
    (hi : v.inputs = s.inputs.tail) : DuringBlock s b h 0 (startBlock h b v) where
  legal := startBlock_legal h b v
  fsm := rfl
  counter := rfl
  working := rfl
  window := holdsSchedule_blockWords b
  digestState := hH
  err := he
  inputs := by simp [hi]

/-- The edge that accepts a block (45_controller.md R223, R226). -/
theorem StartsBlock.step_duringBlock {s : State} {b : Block} {h : Vector Word 8} (hs : StartsBlock s b h) :
    ∃ u, step s = .next u ∧ DuringBlock s b h 0 u := by
  rcases hs with ⟨ha, rfl⟩ | ⟨ha, rfl⟩
  · exact ⟨_, (accepted_step ha).2, startBlock_duringBlock b rfl rfl rfl⟩
  · exact ⟨_, (accepted_step ha).2, startBlock_duringBlock b rfl rfl rfl⟩

/-- A ROUND edge before the last one (44_compression.md R192, 42_message_schedule.md R148, 45_controller.md R231). -/
theorem DuringBlock.step_round {s u : State} {b : Block} {h : Vector Word 8} {k : Nat} (hu : DuringBlock s b h k u)
    (hk : k < 79) (hr : (nextInput u).rst = .known false) :
    ∃ u', step u = .next u' ∧ DuringBlock s b h (k + 1) u' := by
  obtain ⟨hl, hf, ht, hV, hW, hH, he, hi⟩ := hu
  obtain ⟨hv, hw⟩ := hl.written (by simp [hf])
  have hlast : u.t ≠ 79#7 := mt (counter_last u.t).mp (by omega)
  have hedge := quietEdge_round (s := dropInput u) hf hv hw (by rw [dropInput_t]; omega)
  have hword : u.Wwin[0] = wordAt (schedule b) k := hW 0 (by omega) (by omega)
  refine ⟨_, (busy_step hr (by simp [hf])).trans hedge, ?_⟩
  constructor
  case legal => exact nextRound_legal hl.dropInput hf _ _
  case fsm => simp [hlast, hf]
  case counter =>
    rw [nextRound_t, writeWindow_t, writeWorking_t, dropInput_t, if_neg hlast]
    bv_omega
  case working => simp [workAfter, hV, ht, hword]
  case window => simpa using hW.shift
  case digestState => simpa using hH
  case err => simpa using he
  case inputs => simp [hi]

/-- What the host drives at an edge is one of the inputs among which there is no reset, or no reset past their end. -/
theorem nextInput_rst_of_noReset {u : State} {ps : List PortInput} {n : Nat} (hu : u.inputs = ps.drop n)
    (h : NoReset (ps.take (n + 1))) : (nextInput u).rst = .known false := by
  unfold nextInput
  split
  · rfl
  · next p rest hp =>
    refine h p (List.mem_of_getElem? (i := n) ?_)
    rw [List.getElem?_take_of_lt (Nat.lt_succ_self n), ← List.head?_drop, ← hu, hp, List.head?_cons]

theorem NoReset.take_of_le {ps : List PortInput} {m n : Nat} (h : NoReset (ps.take n)) (hmn : m ≤ n) :
    NoReset (ps.take m) := fun p hp => h p ((List.take_prefix_take_left hmn).subset hp)

/-- The run of a block up to its last ROUND edge, by induction on the ROUND edges. -/
theorem StartsBlock.run_duringBlock {s : State} {b : Block} {h : Vector Word 8} (hs : StartsBlock s b h) {k : Nat}
    (hk : k ≤ 79) (hr : NoReset (s.inputs.tail.take k)) :
    ∃ u, Host.Core.run core (k + 1) s = .next u ∧ DuringBlock s b h k u := by
  induction k with
  | zero =>
    obtain ⟨u, hu, hd⟩ := hs.step_duringBlock
    exact ⟨u, run_next 0 hu, hd⟩
  | succ k ih =>
    obtain ⟨u, hu, hd⟩ := ih (by omega) (hr.take_of_le k.le_succ)
    have hi : u.inputs = s.inputs.tail.drop k := by rw [hd.inputs, List.drop_tail]
    obtain ⟨u', hu', hd'⟩ := hd.step_round (by omega) (nextInput_rst_of_noReset hi hr)
    exact ⟨u', (run_last hu).trans hu', hd'⟩

/-! ### The statements -/

/-- Settles O24, by the run of a block: the acceptance edge establishes the registers of a block and every ROUND edge
before the last one keeps them. -/
theorem registersDuringABlock : Obligations.RegistersDuringABlock := by
  intro s b h k hs hk hr
  obtain ⟨u, hu, hd⟩ := hs.run_duringBlock hk hr
  exact ⟨u, hu, hd.fsm, hd.counter, hd.working, fun j => hd.window j.val j.isLt, hd.digestState,
    hd.legal.notValid (by simp [hd.fsm]), hd.err, hd.inputs⟩

/-- Settles O32: the bytes of a word are the block's, and the block's bytes are those it is made of. -/
theorem messageWordsAreBigEndian : Obligations.MessageWordsAreBigEndian := by
  intro bs hl t
  have hbyte := blockByte_blockOfBytes bs hl
  refine ⟨?_, rfl, wordAt_schedule_msg _ t t.isLt⟩
  rw [blockWord_eq_bytes _ t.isLt]
  simp (disch := omega) only [hbyte]

/-- Settles O33, from the number of words and the recurrence. -/
theorem scheduleMeetsTheRecurrence : Obligations.ScheduleMeetsTheRecurrence := fun b =>
  ⟨schedule_length b, fun _ => wordAt_schedule_recurrence b⟩

/-- Settles O36: the bits of the two functions, and the corner cases and the examples evaluated. -/
theorem scheduleMixingBits : Obligations.ScheduleMixingBits :=
  ⟨fun x _ => getLsbD_sigma0 x, fun x _ => getLsbD_sigma1 x, by decide⟩

end Sys2Proof.Machine
end

section
/-!
PROOFS, the constant tables (43_round_constants.md). First the primes in order: the primes below a bound, listed, are the
first values of `Nat.nth Nat.Prime`, and trial division lists them. Then a word as the first 64 bits of the fractional
part of a root (R162, R166), the check of the two tables, and the statement.
-/
namespace Sys2Proof.Machine

/-! ### The first primes -/

/-- The numbers below a bound that satisfy `p`, in order, are the first values of `Nat.nth p`. -/
theorem nth_eq_getElem_filter_range (p : Nat → Prop) [DecidablePred p] {n k : Nat}
    (hk : k < ((List.range n).filter p).length) : Nat.nth p k = ((List.range n).filter p)[k] := by
  induction n with
  | zero => simp at hk
  | succ n ih =>
    simp only [List.range_succ, List.filter_append] at hk ⊢
    rw [List.getElem_append]
    split
    · next h => exact ih h
    · next h =>
      have hn : p n := by_contra fun hn => h (by simpa [hn] using hk)
      have hcount : k = Nat.count p n := by
        rw [Nat.count, List.countP_eq_length_filter]
        have hk : k < ((List.range n).filter p).length + 1 := by simpa [hn] using hk
        omega
      simp [hn, hcount, Nat.nth_count]

/-- Trial division: below `b ^ 2`, a number is prime if no number below `b` but itself divides it. -/
theorem prime_iff_trialDivision {b n : Nat} (hn : n < b ^ 2) :
    n.Prime ↔ 2 ≤ n ∧ ∀ m < b, 2 ≤ m → m ∣ n → m = n := by
  constructor
  · intro hp
    exact ⟨hp.two_le, fun m _ hm hmn => (hp.eq_one_or_self_of_dvd m hmn).resolve_left (by omega)⟩
  · rintro ⟨hn2, htrial⟩
    by_contra hp
    have hsq : n.minFac ^ 2 ≤ n := Nat.minFac_sq_le_self (by omega) hp
    have hlt : n.minFac < b := lt_of_pow_lt_pow_left₀ 2 b.zero_le (hsq.trans_lt hn)
    have hprime : n.minFac.Prime := Nat.minFac_prime (by omega)
    have heq : n.minFac = n := htrial _ hlt hprime.two_le n.minFac_dvd
    exact hp (heq ▸ hprime)

/-- The column `p_t` of the table of 43_round_constants.md R161. -/
def romPrimes : List Nat :=
  [2, 3, 5, 7, 11, 13, 17, 19, 23, 29, 31, 37, 41, 43, 47, 53, 59, 61, 67, 71, 73, 79, 83, 89, 97, 101, 103, 107, 109, 113,
   127, 131, 137, 139, 149, 151, 157, 163, 167, 173, 179, 181, 191, 193, 197, 199, 211, 223, 227, 229, 233, 239, 241, 251,
   257, 263, 269, 271, 277, 281, 283, 293, 307, 311, 313, 317, 331, 337, 347, 349, 353, 359, 367, 373, 379, 383, 389, 397,
   401, 409]

/-- The column holds the primes up to 409: `410 < 21 ^ 2`, so trial division by the numbers below 21 finds them. -/
theorem filter_prime_range_eq_romPrimes : (List.range 410).filter Nat.Prime = romPrimes := by
  have hlist : (List.range 410).filter (fun n => 2 ≤ n ∧ ∀ m < 21, 2 ≤ m → m ∣ n → m = n) = romPrimes := by decide
  rw [← hlist]
  refine List.filter_congr fun n hn => ?_
  have hlt : n < 410 := List.mem_range.mp hn
  rw [decide_eq_decide]
  exact prime_iff_trialDivision (by omega)

theorem nth_prime_eq_romPrimes {k : Nat} (hk : k < 80) : Nat.nth Nat.Prime k = romPrimes.getD k 0 := by
  have hk' : k < ((List.range 410).filter Nat.Prime).length := by rwa [filter_prime_range_eq_romPrimes]
  rw [nth_eq_getElem_filter_range Nat.Prime hk', ← List.getD_eq_getElem _ 0 hk', filter_prime_range_eq_romPrimes]

/-! ### The first 64 bits of the fractional part of a root -/

/-- `w` is the first 64 bits of the fractional part of the `k`-th root of `x` (R162, R166), for a root below 8: with an
integer part `a` before them they are the integer root of `x * 2 ^ (64 * k)`. -/
def IsRootFraction (k x : Nat) (w : Word) : Prop :=
  ∃ a < 8, (a * 2 ^ 64 + w.toNat) ^ k ≤ x * 2 ^ (64 * k) ∧ x * 2 ^ (64 * k) < (a * 2 ^ 64 + w.toNat + 1) ^ k

theorem IsRootFraction.exists_root {k x : Nat} {w : Word} (h : IsRootFraction k x w) :
    ∃ n, n ^ k ≤ x * 2 ^ (64 * k) ∧ x * 2 ^ (64 * k) < (n + 1) ^ k ∧ w.toNat = n % 2 ^ 64 := by
  obtain ⟨a, -, hle, hlt⟩ := h
  exact ⟨_, hle, hlt, by rw [Nat.mul_add_mod_of_lt w.isLt]⟩

/-- R162, over the table's column of primes. -/
theorem kConst_isRootFraction (i : Fin 80) : IsRootFraction 3 (Nat.nth Nat.Prime i) (kConst i) := by
  rw [nth_prime_eq_romPrimes i.isLt]
  revert i
  unfold IsRootFraction
  decide

/-- R166, over the table's column of primes. -/
theorem iv_isRootFraction (i : Fin 8) : IsRootFraction 2 (Nat.nth Nat.Prime i) iv[i] := by
  rw [nth_prime_eq_romPrimes (by omega)]
  revert i
  unfold IsRootFraction
  decide

/-! ### The statement -/

/-- Settles O40: the primes in order are those of R161's table, and each word is checked to be the fraction of its
prime's root. -/
theorem tablesAreRootsOfPrimes : Obligations.TablesAreRootsOfPrimes :=
  ⟨kTable_length, fun i => (kConst_isRootFraction i).exists_root, fun i => (iv_isRootFraction i).exists_root⟩

end Sys2Proof.Machine
end

section
/-!
PROOFS, the compression (44_compression.md). First the mixing functions bit by bit (R180 to R183) and the temporaries as
sums (R184, R185), then the ROUND and FEED edges of a legal state (R192, R195), the last two edges of a block, and that
an idle block shows nothing of its scratch registers (R197). Then each statement from them.
-/
namespace Sys2Proof.Machine

/-! ### The mixing functions -/

/-- Bit `i` of `Sigma0` (44_compression.md R180). -/
theorem getLsbD_bigSigma0 (x : Word) {i : Nat} (hi : i < 64) :
    (bigSigma0 x).getLsbD i =
      ((x.getLsbD ((i + 28) % 64) ^^ x.getLsbD ((i + 34) % 64)) ^^ x.getLsbD ((i + 39) % 64)) := by
  simp only [bigSigma0, BitVec.getLsbD_xor, getLsbD_rotr _ _ hi]

/-- Bit `i` of `Sigma1` (44_compression.md R181). -/
theorem getLsbD_bigSigma1 (x : Word) {i : Nat} (hi : i < 64) :
    (bigSigma1 x).getLsbD i =
      ((x.getLsbD ((i + 14) % 64) ^^ x.getLsbD ((i + 18) % 64)) ^^ x.getLsbD ((i + 41) % 64)) := by
  simp only [bigSigma1, BitVec.getLsbD_xor, getLsbD_rotr _ _ hi]

/-- Bit `i` of the choose function (44_compression.md R182). -/
theorem getLsbD_ch (e f g : Word) {i : Nat} (hi : i < 64) :
    (ch e f g).getLsbD i = if e.getLsbD i then f.getLsbD i else g.getLsbD i := by
  simp only [ch, BitVec.getLsbD_xor, BitVec.getLsbD_and, BitVec.getLsbD_not, decide_eq_true hi, Bool.true_and]
  cases e.getLsbD i <;> simp

/-- Bit `i` of the majority function (44_compression.md R183). -/
theorem getLsbD_maj (a b c : Word) (i : Nat) :
    (maj a b c).getLsbD i = true ↔ 2 ≤ (a.getLsbD i).toNat + (b.getLsbD i).toNat + (c.getLsbD i).toNat := by
  simp only [maj, BitVec.getLsbD_xor, BitVec.getLsbD_and]
  generalize a.getLsbD i = x, b.getLsbD i = y, c.getLsbD i = z
  revert x y z
  decide

/-- A mask of ones chooses `f`, a mask of zeros `g`, and where the two are the same the mask does not matter. -/
theorem ch_allOnes (f g : Word) : ch (BitVec.allOnes 64) f g = f :=
  BitVec.eq_of_getLsbD_eq fun i hi => by rw [getLsbD_ch _ f g hi, BitVec.getLsbD_allOnes, decide_eq_true hi, if_pos rfl]

theorem ch_zero (f g : Word) : ch 0 f g = g :=
  BitVec.eq_of_getLsbD_eq fun i hi => by rw [getLsbD_ch _ f g hi]; simp

theorem ch_same (e f : Word) : ch e f f = f :=
  BitVec.eq_of_getLsbD_eq fun i hi => by rw [getLsbD_ch e f f hi, ite_self]

/-- A word of ones and a word of zeros leave the vote to the third word. -/
theorem maj_allOnes_zero (c : Word) : maj (BitVec.allOnes 64) 0 c = c := by
  rw [maj, BitVec.allOnes_and, BitVec.allOnes_and]
  simp

/-- Two words that agree outvote the third. -/
theorem maj_same (x c : Word) : maj x x c = x := by simp [maj]

/-! ### The temporaries -/

theorem temp1_toNat (v : Vector Word 8) (k w : Word) :
    (temp1 v k w).toNat =
      (v[7].toNat + (bigSigma1 v[4]).toNat + (ch v[4] v[5] v[6]).toNat + k.toNat + w.toNat) % 2 ^ 64 := by
  simp only [temp1, BitVec.toNat_add, Nat.mod_add_mod]

theorem temp2_toNat (v : Vector Word 8) :
    (temp2 v).toNat = ((bigSigma0 v[0]).toNat + (maj v[0] v[1] v[2]).toNat) % 2 ^ 64 :=
  BitVec.toNat_add _ _

/-! ### The edges of a busy block -/

/-- What a ROUND edge writes (44_compression.md R192, 42_message_schedule.md R148, 45_controller.md R231). -/
def roundUpdate (s : State) : State :=
  nextRound (writeWindow (shiftWindow s.Wwin) (writeWorking (shaRound s.V (kConst s.t.toNat) s.Wwin[0]) s))

/-- What a FEED edge writes (44_compression.md R195, 45_controller.md R233). -/
def feedUpdate (s : State) : State := { s with H := feedForward s.H s.V, dv := true, fsm := .idle }

/-- In a legal state a ROUND edge reads nothing that is not there, and goes on. -/
theorem round_step_of_legal {s : State} (h : s.Legal) (hf : s.fsm = .round)
    (hr : (nextInput s).rst = .known false) : step s = .next (roundUpdate (dropInput s)) := by
  obtain ⟨hv, hw⟩ := h.written (by simp [hf])
  rw [busy_step hr (by simp [hf])]
  exact quietEdge_round hf hv hw (Nat.lt_succ_of_le h.counter)

/-- In a legal state a FEED edge reads nothing that is not there, and goes on. -/
theorem feed_step_of_legal {s : State} (h : s.Legal) (hf : s.fsm = .feed)
    (hr : (nextInput s).rst = .known false) : step s = .next (feedUpdate (dropInput s)) := by
  obtain ⟨hv, -⟩ := h.written (by simp [hf])
  rw [busy_step hr (by simp [hf])]
  exact quietEdge_feed hf hv

/-- What the host drives at the next edge is the first of the inputs. -/
theorem nextInput_cons {s : State} {p : PortInput} {rest : List PortInput} (h : s.inputs = p :: rest) :
    nextInput s = p := by
  simp [nextInput, h]

/-- The counter and the controller after a ROUND edge, at the last round and before it (45_controller.md R231). -/
theorem roundUpdate_last {s : State} (ht : s.t.toNat = 79) : (roundUpdate s).t = 0 ∧ (roundUpdate s).fsm = .feed := by
  simp [roundUpdate, (counter_last s.t).mpr ht]

theorem roundUpdate_not_last {s : State} (ht : s.t.toNat < 79) :
    (roundUpdate s).t.toNat = s.t.toNat + 1 ∧ (roundUpdate s).fsm = s.fsm := by
  have hn : s.t ≠ 79#7 := mt (counter_last s.t).mp (by omega)
  refine ⟨?_, by simp [roundUpdate, hn]⟩
  rw [roundUpdate, nextRound_t, writeWindow_t, writeWorking_t, if_neg hn]
  bv_omega

/-! ### The end of a block -/

/-- What holds in `u` when `s` accepted the block `b`, its working variables starting from `h`, and the 80 ROUND edges
followed: the feed-forward is still to come (44_compression.md R193, R194). -/
structure RoundsDone (s : State) (b : Block) (h : Vector Word 8) (u : State) : Prop where
  legal : u.Legal
  fsm : u.fsm = .feed
  working : u.V = workAfter h (schedule b) Config.rounds
  digestState : u.H = h
  err : u.err = s.err
  inputs : u.inputs = s.inputs.drop 81

/-- The last ROUND edge of a block. -/
theorem DuringBlock.step_last_round {s u : State} {b : Block} {h : Vector Word 8} (hu : DuringBlock s b h 79 u)
    (hr : (nextInput u).rst = .known false) : ∃ u', step u = .next u' ∧ RoundsDone s b h u' := by
  obtain ⟨hl, hf, ht, hV, hW, hH, he, hi⟩ := hu
  have hstep := round_step_of_legal hl hf hr
  have hword : u.Wwin[0] = wordAt (schedule b) 79 := hW 0 (by omega) (by omega)
  refine ⟨_, hstep, step_legal hl hstep, (roundUpdate_last (s := dropInput u) ht).2, ?_, ?_, ?_, ?_⟩
  · simp [roundUpdate, Config.rounds, workAfter, hV, ht, hword]
  · simpa [roundUpdate] using hH
  · simpa [roundUpdate] using he
  · simp [roundUpdate, hi]

/-- The run of a block up to its FEED edge. -/
theorem StartsBlock.run_roundsDone {s : State} {b : Block} {h : Vector Word 8} (hs : StartsBlock s b h)
    (hr : NoReset (s.inputs.tail.take 80)) :
    ∃ u, Host.Core.run core 81 s = .next u ∧ RoundsDone s b h u := by
  obtain ⟨u, hu, hd⟩ := hs.run_duringBlock (le_refl 79) (hr.take_of_le (by omega))
  have hi : u.inputs = s.inputs.tail.drop 79 := by rw [hd.inputs, List.drop_tail]
  obtain ⟨u', hu', hd'⟩ := hd.step_last_round (nextInput_rst_of_noReset hi hr)
  exact ⟨u', (run_last hu).trans hu', hd'⟩

/-- The FEED edge of a block: `H` takes the value of the normative per-block function (44_compression.md R196). -/
theorem RoundsDone.step_feed {s u : State} {b : Block} {h : Vector Word 8} (hu : RoundsDone s b h u)
    (hr : (nextInput u).rst = .known false) :
    ∃ u', step u = .next u' ∧ u'.H = compress h (schedule b) ∧ u'.dv = true ∧ u'.fsm = .idle ∧ u'.t = 0 ∧
      u'.err = s.err ∧ u'.inputs = s.inputs.drop 82 := by
  obtain ⟨hl, hf, hV, hH, he, hi⟩ := hu
  refine ⟨_, feed_step_of_legal hl hf hr, ?_, rfl, rfl, hl.atRest (.inr hf), he, ?_⟩
  · simp [feedUpdate, compress, hH, hV]
  · simp [feedUpdate, hi]

/-- Every edge of a block but the last one leaves it busy, with `H` kept (44_compression.md R194). -/
theorem StartsBlock.run_busy {s : State} {b : Block} {h : Vector Word 8} (hs : StartsBlock s b h) {k : Nat} (hk : k ≤ 80)
    (hr : NoReset (s.inputs.tail.take k)) :
    ∃ u, Host.Core.run core (k + 1) s = .next u ∧ u.Legal ∧ u.fsm ≠ .idle ∧ u.H = h := by
  rcases Nat.lt_or_eq_of_le hk with hk | rfl
  · obtain ⟨u, hu, hd⟩ := hs.run_duringBlock (Nat.le_of_lt_succ hk) hr
    exact ⟨u, hu, hd.legal, by simp [hd.fsm], hd.digestState⟩
  · obtain ⟨u, hu, hd⟩ := hs.run_roundsDone hr
    exact ⟨u, hu, hd.legal, by simp [hd.fsm], hd.digestState⟩

/-! ### The scratch registers of an idle block -/

/-- `s` with the scratch registers of `r`: the working registers and the window, their tags, and the counter. -/
def State.withScratch (s r : State) : State :=
  { s with V := r.V, vWritten := r.vWritten, Wwin := r.Wwin, wwinWritten := r.wwinWritten, t := r.t }

theorem observe_withScratch (r s : State) : observe (.next (s.withScratch r)) = observe (.next s) := rfl

/-- The start of a block overwrites all of the scratch registers (42_message_schedule.md R145, 44_compression.md R197). -/
theorem startBlock_withScratch (h : Vector Word 8) (b : Block) (r s : State) :
    startBlock h b (s.withScratch r) = startBlock h b s := rfl

theorem resetEdge_withScratch (r s : State) :
    resetEdge (s.withScratch r) = (resetEdge s).withScratch (resetEdge r) := rfl

/-- States that agree in all but their scratch registers. -/
theorem eq_withScratch {s s' : State} (hf : s.fsm = s'.fsm) (hH : s.H = s'.H) (hd : s.dv = s'.dv)
    (he : s.err = s'.err) (hi : s.inputs = s'.inputs) : s' = s.withScratch s' := by
  simp [State.withScratch, hf, hH, hd, he, hi]

/-- Two outcomes are the same, or both go on to idle states that agree in all but their scratch registers. -/
def AgreeButScratch (o o' : Host.Outcome State Fault Refusal) : Prop :=
  o' = o ∨ ∃ u r, u.fsm = .idle ∧ o = .next u ∧ o' = .next (u.withScratch r)

/-- A compressing command overwrites the scratch registers; every other command leaves them, and stays in IDLE. -/
theorem acceptEffect_withScratch (i : Instr) (r : State) {s : State} (hf : s.fsm = .idle) :
    AgreeButScratch (.next (acceptEffect i s)) (.next (acceptEffect i (s.withScratch r))) := by
  cases i with
  | init => exact .inr ⟨acceptEffect .init s, r, hf, rfl, rfl⟩
  | block b => exact .inl (congrArg _ (startBlock_withScratch s.H b r s))
  | initBlock b => exact .inl (congrArg _ (startBlock_withScratch iv b r (loadIV s)))
  | reserved => exact .inr ⟨acceptEffect .reserved s, r, hf, rfl, rfl⟩

theorem idleEdge_withScratch (p : PortInput) (r : State) {s : State} (hf : s.fsm = .idle) :
    AgreeButScratch (idleEdge p s) (idleEdge p (s.withScratch r)) := by
  have hf' : (s.withScratch r).fsm = .idle := hf
  unfold idleEdge
  split
  · exact .inl rfl
  · exact .inr ⟨s, r, hf, quietEdge_idle hf, quietEdge_idle hf'⟩
  · unfold acceptEdge
    split
    · next i _ =>
      rw [exec_idle i hf, exec_idle i hf']
      exact acceptEffect_withScratch i r hf
    · exact .inl rfl

/-- No edge in IDLE lets the scratch registers into another register. -/
theorem clockEdge_withScratch (p : PortInput) (r : State) {s : State} (hf : s.fsm = .idle) :
    AgreeButScratch (clockEdge p s) (clockEdge p (s.withScratch r)) := by
  rcases hr : p.rst with (_ | _) | _
  · rw [clockEdge_idle hr hf, clockEdge_idle hr (s := s.withScratch r) hf]
    exact idleEdge_withScratch p r hf
  · refine .inr ⟨resetEdge s, resetEdge r, rfl, ?_, ?_⟩
    · simp [clockEdge, hr]
    · simp [clockEdge, hr, resetEdge_withScratch]
  · exact .inl (by simp [clockEdge, hr])

/-- A run of one more edge is decided by the outcome of its first edge. -/
theorem run_congr {s s' : State} (n : Nat) (h : step s = step s') :
    Host.Core.run core (n + 1) s = Host.Core.run core (n + 1) s' := by
  have h' : core.step s = core.step s' := h
  simp only [Host.Core.run, h']

/-- A run from IDLE shows nothing of the scratch registers (44_compression.md R197): until a block starts they are not
looked at, and from then on the two runs are the same. -/
theorem observe_run_withScratch (n : Nat) (r : State) {s : State} (hf : s.fsm = .idle) :
    observe (Host.Core.run core n (s.withScratch r)) = observe (Host.Core.run core n s) := by
  induction n generalizing r s with
  | zero => exact observe_withScratch r s
  | succ n ih =>
    have hstep : AgreeButScratch (step s) (step (s.withScratch r)) :=
      clockEdge_withScratch (nextInput s) r (s := dropInput s) hf
    rcases hstep with h | ⟨u, r', hu, h, h'⟩
    · rw [run_congr n h]
    · rw [run_next n h, run_next n h']
      exact ih r' hu

/-! ### The statements -/

/-- Settles O25: 80 ROUND edges bring the block to FEED with the working variables of all rounds, and the FEED edge adds
them into `H`. -/
theorem blockCompressesTheDigestState : Obligations.BlockCompressesTheDigestState := by
  intro s b h hs hr
  refine ⟨fun k hk => ?_, ?_⟩
  · obtain ⟨u, hu, hl, hf, hH⟩ := hs.run_busy (Nat.le_of_lt_succ hk) (hr.take_of_le hk.le)
    exact ⟨u, hu, by simp [busy, hf], hH, hl.notValid hf⟩
  · obtain ⟨u, hu, hd⟩ := hs.run_roundsDone (hr.take_of_le (by decide))
    have hi : u.inputs = s.inputs.tail.drop 80 := by rw [hd.inputs, List.drop_tail]
    obtain ⟨u', hu', hH, hdv, hf, ht, he, hin⟩ := hd.step_feed (nextInput_rst_of_noReset hi hr)
    exact ⟨u', (run_last hu).trans hu', hH, hdv, hf, ht, by simp [cmdReady, hf], he, hin⟩

/-- Settles O27: the second state is the first with other scratch registers. -/
theorem earlierScratchIsInvisible : Obligations.EarlierScratchIsInvisible := by
  intro s s' hf hf' hH hd he hi n
  rw [eq_withScratch (hf.trans hf'.symm) hH hd he hi]
  exact (observe_run_withScratch n s' hf).symm

/-- Settles O11: a legal state's ROUND edge goes on, and what it writes is read off register by register. -/
theorem roundEdgeRunsOneRound : Obligations.RoundEdgeRunsOneRound := by
  rintro s p rest _ _ hl hf hs hp rfl rfl
  have hr : (nextInput s).rst = .known false := by rw [nextInput_cons hs, hp]
  obtain ⟨hv, hw⟩ := hl.written (by simp [hf])
  refine ⟨_, round_step_of_legal hl hf hr, ?_, fun j hj => ?_, ?_, roundUpdate_last (s := dropInput s), fun ht => ?_, ?_⟩
  · simp [roundUpdate, shaRound, temp1, temp2]
  · simp [roundUpdate, hj]
  · simp [roundUpdate, windowNew]
  · obtain ⟨ht', hf'⟩ := roundUpdate_not_last (s := dropInput s) (lt_of_le_of_ne hl.counter ht)
    exact ⟨ht', hf'.trans hf⟩
  · simp [roundUpdate, hv, hw, hs]

/-- Settles O12: a legal state's FEED edge goes on, and in FEED the counter is at rest. -/
theorem feedEdgeAddsTheWorkingRegisters : Obligations.FeedEdgeAddsTheWorkingRegisters := by
  intro s p rest hl hf hs hp
  have hr : (nextInput s).rst = .known false := by rw [nextInput_cons hs, hp]
  refine ⟨_, feed_step_of_legal hl hf hr, fun i => ?_, hl.atRest (.inr hf), ?_⟩
  · simp [feedUpdate]
  · simp [feedUpdate, dropInput, hs]

/-- Settles O37: the bits of the two functions, and the corner cases and the examples evaluated. -/
theorem compressionMixingBits : Obligations.CompressionMixingBits :=
  ⟨fun x _ => getLsbD_bigSigma0 x, fun x _ => getLsbD_bigSigma1 x, by decide⟩

/-- Settles O38: the bits of the two functions, their laws for words of equal bits, and the examples evaluated. -/
theorem chooseAndMajorityBits : Obligations.ChooseAndMajorityBits :=
  ⟨fun e f g _ => getLsbD_ch e f g, fun a b c i _ => getLsbD_maj a b c i,
   fun f g => ⟨ch_allOnes f g, ch_zero f g⟩, ch_same, by decide,
   fun c x => ⟨maj_allOnes_zero c, maj_same x c⟩, by decide, by decide⟩

/-- Settles O39, from the two sums. -/
theorem temporariesAreModularSums : Obligations.TemporariesAreModularSums :=
  fun v k w => ⟨temp1_toNat v k w, temp2_toNat v⟩

end Sys2Proof.Machine
end

section
/-!
PROOFS, the controller (45_controller.md). First the effect of each command on an idle state, register by register, and
what an edge with `rst = 0` is where a command is offered and where none is. Then each statement from them.
-/
namespace Sys2Proof.Machine

/-! ### The effects of the commands -/

/-- INIT writes `H` and `dv` (45_controller.md R220). -/
theorem acceptEffect_init (s : State) : acceptEffect .init s = { s with H := iv, dv := false } := rfl

/-- The load of the window takes word `j` of the block port into entry `j` (42_message_schedule.md R146). -/
theorem blockWords_eq (b : Block) :
    blockWords b = Vector.ofFn fun j : Fin 16 => b.extractLsb' (960 - 64 * j.val) 64 := rfl

/-- The start of a block, register by register (45_controller.md R223, R226). -/
theorem startBlock_eq (h : Vector Word 8) (b : Block) (s : State) :
    startBlock h b s =
      { s with
        V := h, vWritten := Vector.replicate 8 true, Wwin := blockWords b,
        wwinWritten := Vector.replicate 16 true, t := 0, fsm := .round, dv := false } := rfl

/-- BLOCK starts from the digest state that is there (45_controller.md R223). -/
theorem acceptEffect_block (b : Block) (s : State) : acceptEffect (.block b) s = startBlock s.H b s := rfl

/-- INIT_BLOCK loads `IV` and starts from it (45_controller.md R226). -/
theorem acceptEffect_initBlock (b : Block) (s : State) :
    acceptEffect (.initBlock b) s = startBlock iv b { s with H := iv } := rfl

/-- The reserved command writes `err` (45_controller.md R228). -/
theorem acceptEffect_reserved (s : State) : acceptEffect .reserved s = { s with err := true } := rfl

/-- Where `err` is set already, setting it writes what is there. -/
theorem with_err_eq_self {s : State} (he : s.err = true) : { s with err := true } = s := by
  rw [← he]

/-- The digest state that INIT leaves is the one INIT_BLOCK loads, and the start of a block clears `dv` anyway. -/
theorem acceptEffect_block_init (b : Block) (s : State) :
    acceptEffect (.block b) (acceptEffect .init s) = acceptEffect (.initBlock b) s := by
  simp only [acceptEffect_block, acceptEffect_init, acceptEffect_initBlock, startBlock_eq]

/-- INIT_BLOCK overwrites the digest state before anything reads it. -/
theorem acceptEffect_initBlock_withH (b : Block) (h : Vector Word 8) (s : State) :
    acceptEffect (.initBlock b) { s with H := h } = acceptEffect (.initBlock b) s := by
  simp only [acceptEffect_initBlock]

/-! ### The edges with `rst = 0` -/

/-- Whatever the controller state, an edge at which the ports give a command is exec of it: it is accepted in IDLE
(45_controller.md R212), and elsewhere both sides are the edge that does not look at the ports (R214). -/
theorem clockEdge_offered {p : PortInput} {s : State} {i : Instr} (hr : p.rst = .known false)
    (hc : p.cmdValid = .known true) (hd : decodePorts p.cmdOp p.blkData = .ok i) : clockEdge p s = exec i s := by
  by_cases hf : s.fsm = .idle
  · exact clockEdge_accept hr hc hf hd
  · rw [clockEdge_busy hr hf, exec_busy i hf]

/-- With no command offered the controller holds in IDLE (45_controller.md R213). -/
theorem clockEdge_idle_noOffer {p : PortInput} {s : State} (hr : p.rst = .known false)
    (hc : p.cmdValid = .known false) (hf : s.fsm = .idle) : clockEdge p s = .next s := by
  have hq : idleEdge p s = quietEdge s := by simp only [idleEdge, hc]
  rw [clockEdge_idle hr hf, hq, quietEdge_idle hf]

/-! ### The statements -/

/-- Settles O4: INIT's effect is on `H` and `dv` alone, and after reset they hold what it writes. -/
theorem initLoadsTheInitialHashValue : Obligations.InitLoadsTheInitialHashValue := by
  refine ⟨fun blk => (portEncoding .init).2 blk (.inl rfl), fun s hf => ⟨?_, ?_, ?_⟩, ?_⟩
  · rw [exec_idle .init hf, acceptEffect_init]
  · simp [busy, hf]
  · simp [cmdReady, hf]
  · have hreset : acceptEffect .init State.reset = State.reset := rfl
    rw [exec_idle .init rfl, hreset]

/-- Settles O5: the start of a block from the digest state. -/
theorem blockAcceptanceStartsFromTheDigestState : Obligations.BlockAcceptanceStartsFromTheDigestState := by
  intro s b hf
  rw [exec_idle (.block b) hf, acceptEffect_block, startBlock_eq, blockWords_eq]

/-- Settles O6: the start of a block from `IV`, with `H` loaded. -/
theorem initBlockAcceptanceStartsFromTheInitialHashValue :
    Obligations.InitBlockAcceptanceStartsFromTheInitialHashValue := by
  intro s b hf
  rw [exec_idle (.initBlock b) hf, acceptEffect_initBlock, startBlock_eq, blockWords_eq]

/-- Settles O7: the effect of the reserved command is on `err` alone. -/
theorem reservedSetsErrAndNothingElse : Obligations.ReservedSetsErrAndNothingElse := by
  have heffect : ∀ s : State, s.fsm = .idle → exec .reserved s = .next { s with err := true } := fun s hf => by
    rw [exec_idle .reserved hf, acceptEffect_reserved]
  refine ⟨fun blk => (portEncoding .reserved).2 blk (.inl rfl), heffect, fun s hf he => ?_, fun s => status_err _⟩
  rw [heffect s hf, with_err_eq_self he]

/-- Settles O8: INIT leaves an idle state, so the effects compose, and INIT_BLOCK's does not read `H`. -/
theorem initBlockIsInitThenBlock : Obligations.InitBlockIsInitThenBlock := by
  refine ⟨fun s u b hf hu => ?_, fun s b h hf => ?_⟩
  · obtain rfl : acceptEffect .init s = u := Host.Outcome.next.inj ((exec_idle .init hf).symm.trans hu)
    have hf' : (acceptEffect .init s).fsm = .idle := hf
    rw [exec_idle (.block b) hf', exec_idle (.initBlock b) hf, acceptEffect_block_init]
  · rw [exec_idle (.initBlock b) hf, exec_idle (.initBlock b) (s := { s with H := h }) hf, acceptEffect_initBlock_withH]

/-- Settles O9: a step is an edge with the first of the inputs, and at that edge the command is offered. -/
theorem stepRunsTheOfferedCommand : Obligations.StepRunsTheOfferedCommand := by
  intro s p rest i hs hr hc hd _
  rw [step_cons hs, clockEdge_offered hr hc hd]

/-- Settles O13: a step is an edge with the first of the inputs, and the controller holds at it. -/
theorem idleEdgeWithoutCommandHolds : Obligations.IdleEdgeWithoutCommandHolds := by
  intro s p rest hf hs hr hc
  rw [step_cons hs, clockEdge_idle_noOffer (s := { s with inputs := rest }) hr hc hf]

/-- Settles O14: either step is the edge that accepts nothing, on the same state, and so is exec of every command. -/
theorem offersWhileBusyHaveNoEffect : Obligations.OffersWhileBusyHaveNoEffect := by
  intro s p q rest hf hp hq
  have hstep {r : PortInput} (hr : r.rst = .known false) :
      step { s with inputs := r :: rest } = quietEdge { s with inputs := rest } := by
    rw [step_cons rfl]
    exact clockEdge_busy hr hf
  exact ⟨(hstep hp).trans (hstep hq).symm, fun i => exec_busy i hf⟩

end Sys2Proof.Machine
end

section
/-!
PROOFS, the host's driver (46_host_driver.md). First the hex rendering and the read of the digest port (R253, R80), then
how the host waits for a busy block, carries out the commands of a message and reads its digest (R250, R252), and what
the digest procedure has returned at each move. Then each statement from them.
-/
namespace Sys2Proof.Machine

/-! ### Hex rendering -/

/-- Each of the 16 values of a digit has its place among the hex digits (46_host_driver.md R253). -/
theorem hexDigits_getElem? (d : BitVec 4) : hexDigits[d.toNat]? = some (hexDigit d) := by
  revert d; decide

@[simp] theorem hexWord_length (x : Word) : (hexWord x).length = 16 := by simp [hexWord]

/-- Character `j` of a word is the digit of its bits `63-4j..60-4j` (46_host_driver.md R253). -/
theorem hexWord_getElem? (x : Word) {j : Nat} (hj : j < 16) :
    (hexWord x)[j]? = hexDigits[(x.extractLsb' (60 - 4 * j) 4).toNat]? := by
  rw [hexDigits_getElem?]
  simp [hexWord, hj]

theorem mem_hexDigits_of_mem_hexWord {x : Word} {c : Char} (hc : c ∈ hexWord x) : c ∈ hexDigits := by
  obtain ⟨k, -, rfl⟩ := List.mem_map.mp hc
  exact List.mem_of_getElem? (hexDigits_getElem? _)

/-- Where every part has `n` entries, entry `n i + j` of the parts in a row is entry `j` of part `i`. -/
theorem getElem?_flatMap_of_length {α β : Type} {f : α → List β} {n : Nat} (hf : ∀ a, (f a).length = n) {j : Nat}
    (hj : j < n) (l : List α) (i : Nat) : (l.flatMap f)[n * i + j]? = l[i]?.bind fun a => (f a)[j]? := by
  induction l generalizing i with
  | nil => simp
  | cons a l ih =>
    rw [List.flatMap_cons]
    cases i with
    | zero => rw [Nat.mul_zero, Nat.zero_add, List.getElem?_append_left (by rw [hf]; exact hj)]; simp
    | succ i =>
      have hsub : n * (i + 1) + j - (f a).length = n * i + j := by rw [hf, Nat.mul_succ]; omega
      rw [List.getElem?_append_right (by rw [hf, Nat.mul_succ]; omega), hsub, ih]
      simp

/-! ### The digest port as the host reads it -/

/-- The words on the digest port are those it was driven with (30_encoding.md R80). -/
theorem wordsOfDigest_digestOfWords (h : Vector Word 8) : wordsOfDigest (digestOfWords h) = h := by
  ext1 i hi
  rw [wordsOfDigest, Vector.getElem_ofFn]
  exact digestOfWords_word h ⟨i, hi⟩

theorem hexPort_digest (s : State) : hexPort (digest s) = hexDigest s.H :=
  congrArg hexDigest (wordsOfDigest_digestOfWords s.H)

/-- The end of the digest procedure looks at the digest-valid bit (46_host_driver.md R250). -/
theorem returnHex_readout (s : State) :
    returnHex (readout s) = if s.dv then .ok (hexDigest s.H) else .error .digestNotValid := by
  have hdv : (readout s).status[1] = s.dv := status_dv s
  have hex : hexPort (readout s).digest = hexDigest s.H := hexPort_digest s
  rw [returnHex, hdv, hex]

/-! ### Waiting for a busy block -/

theorem nextRound_withInputs (ps : List PortInput) (s : State) :
    nextRound { s with inputs := ps } = { nextRound s with inputs := ps } := by
  by_cases ht : s.t = 79#7 <;> simp [nextRound, ht]

/-- An edge that accepts nothing does the same whatever the host is to drive at the edges after it. -/
theorem quietEdge_withInputs {s u : State} (h : quietEdge s = .next u) (ps : List PortInput) :
    quietEdge { s with inputs := ps } = .next { u with inputs := ps } := by
  rcases quietEdge_cases h with ⟨hf, rfl⟩ | ⟨hf, hr⟩ | ⟨hf, hr⟩
  · exact quietEdge_idle hf
  · obtain ⟨hv, hw, ht, rfl⟩ := roundEdge_cases hr
    rw [← nextRound_withInputs]
    exact quietEdge_round hf hv hw ht
  · obtain ⟨hv, rfl⟩ := feedEdge_cases hr
    exact quietEdge_feed hf hv

/-- A step of a busy block whose host offers nothing any more. -/
theorem step_of_quietEdge {s u : State} (hf : s.fsm ≠ .idle) (h : quietEdge s = .next u) :
    step { s with inputs := [] } = .next { u with inputs := [] } := by
  rw [step_nil rfl, clockEdge_busy (s := { s with inputs := [] }) rfl hf]
  exact quietEdge_withInputs h []

/-- The first of the lines takes an edge and stays first while the block is busy (30_encoding.md R84, R85). -/
inductive WaitsWhileBusy : List HostLine → Prop
  | command (i : Instr) (rest : List HostLine) : WaitsWhileBusy (.command i :: rest)
  | wait (rest : List HostLine) : WaitsWhileBusy (.wait :: rest)

/-- A move of the host whose first line waits, on a busy block. -/
theorem hostMove_waits {r : HostRun} {lines : List HostLine} {u : State} (hw : WaitsWhileBusy lines)
    (ht : r.todo = lines) (hf : r.block.fsm ≠ .idle) (hu : quietEdge r.block = .next u) :
    hostMove r = .next { r with block := u, edges := r.edges + 1 } := by
  cases hw with
  | command i rest => exact hostMove_command_busy ht hf hu
  | wait rest =>
    have he : clockEdge .quiet r.block = .next u := (clockEdge_busy rfl hf).trans hu
    simp [hostMove, ht, hostEdge, he, busy, hf]

/-- A line that waits brings a legal block to IDLE in as many edges as it is away from it: to the state to which the
block runs while the host offers nothing. -/
theorem hostMoves_waits {n : Nat} {r : HostRun} (hw : WaitsWhileBusy r.todo) (h : r.block.Legal)
    (hn : r.block.edgesToIdle = n) :
    ∃ v : State, hostMoves n r = .next { r with block := v, edges := r.edges + n } ∧ v.fsm = .idle ∧
      Host.Core.run core n { r.block with inputs := [] } = .next { v with inputs := [] } := by
  induction n generalizing r with
  | zero =>
    refine ⟨r.block, rfl, ?_, rfl⟩
    by_contra hf
    obtain ⟨u, -, -, hu⟩ := quietEdge_nears_idle h hf
    omega
  | succ n ih =>
    have hf : r.block.fsm ≠ .idle := fun hf => by simp [edgesToIdle_idle hf] at hn
    obtain ⟨u, hu, hul, he⟩ := quietEdge_nears_idle h hf
    obtain ⟨v, hv, hvf, hrun⟩ := ih (r := { r with block := u, edges := r.edges + 1 }) hw hul (by simp; omega)
    refine ⟨v, ?_, hvf, (run_next n (step_of_quietEdge hf hu)).trans hrun⟩
    rw [hostMoves_succ n (hostMove_waits hw rfl hf hu), hv, Nat.add_assoc, Nat.add_comm 1 n]

/-! ### The commands of a message -/

/-- The command compresses block `b`, its working variables starting from `h` (44_compression.md R194). -/
def Compresses (i : Instr) (s : State) (b : Block) (h : Vector Word 8) : Prop :=
  (i = .block b ∧ h = s.H) ∨ (i = .initBlock b ∧ h = iv)

theorem acceptedCommand_offer (i : Instr) {s : State} (hf : s.fsm = .idle) (ps : List PortInput) :
    acceptedCommand { s with inputs := offer i :: ps } = some i := by
  simp [acceptedCommand, nextInput, offer, hf, decodePorts_encode, Except.toOption]

/-- Where the host offers a compressing command to an idle block, the block starts. -/
theorem Compresses.startsBlock {i : Instr} {s : State} {b : Block} {h : Vector Word 8} (hi : Compresses i s b h)
    (hf : s.fsm = .idle) (ps : List PortInput) : StartsBlock { s with inputs := offer i :: ps } b h := by
  have ha := acceptedCommand_offer i hf ps
  rcases hi with ⟨rfl, rfl⟩ | ⟨rfl, rfl⟩
  · exact .inl ⟨ha, rfl⟩
  · exact .inr ⟨ha, rfl⟩

theorem Compresses.acceptEffect_eq {i : Instr} {s : State} {b : Block} {h : Vector Word 8} (hi : Compresses i s b h) :
    acceptEffect i s = startBlock h b { s with H := h } := by
  rcases hi with ⟨rfl, rfl⟩ | ⟨rfl, rfl⟩ <;> rfl

/-- The block is idle and shows the digest state `h` as valid; the error bit is `e`. -/
structure ShowsDigest (h : Vector Word 8) (e : Bool) (s : State) : Prop where
  fsm : s.fsm = .idle
  digestState : s.H = h
  valid : s.dv = true
  err : s.err = e

/-- A compressing command takes 82 moves, each an edge: the edge that accepts it, and the 81 edges of the block while
the next line waits (44_compression.md R196, 70_reset_and_hazards.md R304). -/
theorem hostMoves_compresses {r : HostRun} {i : Instr} {rest : List HostLine} {b : Block} {h : Vector Word 8}
    (hi : Compresses i r.block b h) (ht : r.todo = .command i :: rest) (hw : WaitsWhileBusy rest)
    (hf : r.block.fsm = .idle) :
    ∃ v : State, ShowsDigest (compress h (schedule b)) r.block.err v ∧
      hostMoves 82 r = .next { r with block := v, todo := rest, edges := r.edges + 82 } := by
  have haccept : step { r.block with inputs := [offer i] } = .next { acceptEffect i r.block with inputs := [] } := by
    rw [(accepted_step (acceptedCommand_offer i hf [])).2]
    cases i <;> rfl
  have hlegal : (acceptEffect i r.block).Legal := hi.acceptEffect_eq ▸ startBlock_legal h b _
  have h81 : (acceptEffect i r.block).edgesToIdle = 81 := hi.acceptEffect_eq ▸ edgesToIdle_round rfl
  obtain ⟨v, hmoves, hvf, hrun⟩ := hostMoves_waits
    (r := { r with block := acceptEffect i r.block, todo := rest, edges := r.edges + 1 }) hw hlegal h81
  obtain ⟨-, u, hu, hH, hdv, -, -, -, he, -⟩ :=
    blockCompressesTheDigestState _ b h (hi.startsBlock hf []) (by simp [NoReset])
  obtain rfl : u = { v with inputs := [] } :=
    Host.Outcome.next.inj (hu.symm.trans ((run_next 81 haccept).trans hrun))
  exact ⟨v, ⟨hvf, hH, hdv, he⟩, (hostMoves_succ 81 (hostMove_command_idle ht hf)).trans hmoves⟩

/-- The per-block function folded over blocks (46_host_driver.md R252). -/
def compressBlocks (h : Vector Word 8) (bs : List Block) : Vector Word 8 :=
  bs.foldl (fun h b => compress h (schedule b)) h

theorem messageDigest_eq (m : List Byte) : messageDigest m = compressBlocks iv (blocksOf (pad m)) := rfl

theorem compressBlocks_cons (h : Vector Word 8) (b : Block) (bs : List Block) :
    compressBlocks h (b :: bs) = compressBlocks (compress h (schedule b)) bs := rfl

/-- The commands for the further blocks of a message (46_host_driver.md R250). -/
def furtherCommands (bs : List Block) : List HostLine := bs.map fun b => .command (.block b)

theorem blockCommands_cons (b : Block) (bs : List Block) :
    blockCommands (b :: bs) = .command (.initBlock b) :: furtherCommands bs := rfl

theorem waitsWhileBusy_furtherCommands (bs : List Block) {rest : List HostLine} (hw : WaitsWhileBusy rest) :
    WaitsWhileBusy (furtherCommands bs ++ rest) := by
  cases bs with
  | nil => exact hw
  | cons b bs => exact .command _ _

/-- BLOCK lines fold the per-block function over their blocks, 82 edges each. -/
theorem hostMoves_furtherCommands {bs : List Block} {h : Vector Word 8} {e : Bool} {r : HostRun} {rest : List HostLine}
    (hw : WaitsWhileBusy rest) (ht : r.todo = furtherCommands bs ++ rest) (hr : ShowsDigest h e r.block) :
    ∃ v : State, ShowsDigest (compressBlocks h bs) e v ∧
      hostMoves (82 * bs.length) r = .next { r with block := v, todo := rest, edges := r.edges + 82 * bs.length } := by
  induction bs generalizing h r with
  | nil =>
    obtain rfl : r.todo = rest := ht
    exact ⟨r.block, hr, rfl⟩
  | cons b bs ih =>
    obtain ⟨u, hu, hfirst⟩ := hostMoves_compresses (.inl ⟨rfl, hr.digestState.symm⟩) ht
      (waitsWhileBusy_furtherCommands bs hw) hr.fsm
    obtain ⟨v, hv, hrest⟩ := ih
      (r := { r with block := u, todo := furtherCommands bs ++ rest, edges := r.edges + 82 }) rfl (hr.err ▸ hu)
    refine ⟨v, hv, ?_⟩
    rw [List.length_cons, Nat.mul_succ, Nat.add_comm, ← Nat.add_assoc]
    exact (hostMoves_add _ hfirst).trans hrest

/-- A message has at least one block (41_host_padding.md R127). -/
theorem exists_blocksOf_pad (m : List Byte) : ∃ b bs, blocksOf (pad m) = b :: bs := by
  refine List.exists_cons_of_length_pos ?_
  rw [blocksOf_length, pad_length_eq_blocks]
  omega

/-- The edges that the commands of a message take from an idle block (70_reset_and_hazards.md R304). -/
def messageEdges (m : List Byte) : Nat := 82 * (blocksOf (pad m)).length

theorem messageEdges_eq (m : List Byte) : messageEdges m = 82 * ((m.length + 17 + 127) / 128) := by
  rw [messageEdges, blocksOf_length, pad_length_eq_blocks, Nat.mul_div_cancel_left _ (by decide)]

/-- The commands of a message leave its digest in `H` (46_host_driver.md R250, R252): INIT_BLOCK starts from `IV`, and
the further commands fold on. -/
theorem hostMoves_blockCommands {m : List Byte} {r : HostRun} {rest : List HostLine} (hw : WaitsWhileBusy rest)
    (ht : r.todo = blockCommands (blocksOf (pad m)) ++ rest) (hf : r.block.fsm = .idle) :
    ∃ v : State, ShowsDigest (messageDigest m) r.block.err v ∧
      hostMoves (messageEdges m) r = .next { r with block := v, todo := rest, edges := r.edges + messageEdges m } := by
  obtain ⟨b, bs, hbs⟩ := exists_blocksOf_pad m
  rw [hbs, blockCommands_cons] at ht
  obtain ⟨u, hu, hfirst⟩ := hostMoves_compresses (.inr ⟨rfl, rfl⟩) ht (waitsWhileBusy_furtherCommands bs hw) hf
  obtain ⟨v, hv, hrest⟩ := hostMoves_furtherCommands
    (r := { r with block := u, todo := furtherCommands bs ++ rest, edges := r.edges + 82 }) hw rfl hu
  rw [messageDigest_eq, hbs, compressBlocks_cons]
  refine ⟨v, hv, ?_⟩
  rw [messageEdges, hbs, List.length_cons, Nat.mul_succ, Nat.add_comm, ← Nat.add_assoc]
  exact (hostMoves_add _ hfirst).trans hrest

/-! ### The lines of the digest procedure -/

/-- The commands of a message and the read of its digest (46_host_driver.md R250). -/
def digestLines (m : List Byte) : List HostLine := blockCommands (blocksOf (pad m)) ++ [.wait, .read]

theorem waitsWhileBusy_digestLines (m : List Byte) : WaitsWhileBusy (digestLines m) := by
  obtain ⟨b, bs, hbs⟩ := exists_blocksOf_pad m
  rw [digestLines, hbs, blockCommands_cons]
  exact .command _ _

/-- The expansion of HASH in the domain (30_encoding.md R85, 41_host_padding.md R128). -/
theorem hashLines_eq {m : List Byte} (hm : lengthInDomain m.length = true) : hashLines m = .ok (digestLines m) := by
  simp only [hashLines, paddedBlocks_in hm, digestLines]

theorem hostMove_hash {r : HostRun} {m : List Byte} {rest : List HostLine} (hm : lengthInDomain m.length = true)
    (ht : r.todo = .hash m :: rest) : hostMove r = .next { r with todo := digestLines m ++ rest } := by
  simp only [hostMove, ht, hashLines_eq hm]

/-- WAIT passes at an idle block (30_encoding.md R85). -/
theorem hostMove_wait_idle {r : HostRun} {rest : List HostLine} (ht : r.todo = .wait :: rest)
    (hf : r.block.fsm = .idle) : hostMove r = .next { r with todo := rest } := by
  simp [hostMove, ht, busy, hf]

/-- READ samples the outputs (30_encoding.md R85). -/
theorem hostMove_read {r : HostRun} {rest : List HostLine} (ht : r.todo = .read :: rest) :
    hostMove r = .next { r with todo := rest, seen := r.seen ++ [readout r.block] } := by
  simp only [hostMove, ht]

/-- The digest procedure up to its read, where its first command waited for `k` edges: the message's digest stands in
`H` and nothing has been read (46_host_driver.md R250). -/
theorem hostMoves_hash_before_read {m : List Byte} {s w : State} {k : Nat} (hm : lengthInDomain m.length = true)
    (hk : hostMoves k (hostStart s (digestLines m)) = .next ⟨w, digestLines m, [], k⟩) (hf : w.fsm = .idle) :
    ∃ v : State, ShowsDigest (messageDigest m) w.err v ∧
      hostMoves (k + (messageEdges m + 1) + 1) (hostStart s [.hash m]) = .next ⟨v, [.read], [], k + messageEdges m⟩ := by
  obtain ⟨v, hv, hmoves⟩ :=
    hostMoves_blockCommands (r := ⟨w, digestLines m, [], k⟩) (rest := [.wait, .read]) (.wait _) rfl hf
  have hexpand : hostMove (hostStart s [.hash m]) = .next (hostStart s (digestLines m)) := by
    rw [hostMove_hash hm rfl, List.append_nil]
    rfl
  refine ⟨v, hv, ?_⟩
  rw [hostMoves_succ _ hexpand, hostMoves_add _ hk, hostMoves_add _ hmoves]
  exact hostMoves_succ 0 (hostMove_wait_idle rfl hv.fsm)

/-- What the read at the end of the procedure samples: `digest_valid` 1 and `busy` 0. -/
theorem ShowsDigest.readout_eq {h : Vector Word 8} {e : Bool} {s : State} (hs : ShowsDigest h e s) :
    readout s = ⟨digestOfWords h, BitVec.ofBool e ++ 0b10#2⟩ := by
  obtain ⟨hf, rfl, hdv, rfl⟩ := hs
  have hstatus : status s = BitVec.ofBool s.err ++ 0b10#2 := by
    simp only [status, busy, hf, hdv]
    cases s.err <;> decide
  rw [readout, hstatus, digest]

/-! ### What the digest procedure has returned -/

/-- An edge samples nothing. -/
theorem hostEdge_seen {p : PortInput} {todo : List HostLine} {r r' : HostRun} (h : hostEdge p todo r = .next r') :
    r'.seen = r.seen := by
  unfold hostEdge at h
  split at h
  · rw [← Host.Outcome.next.inj h]
  · cases h
  · cases h

/-- A move takes no sample back. -/
theorem hostMove_seen {r r' : HostRun} (h : hostMove r = .next r') : r.seen <+: r'.seen := by
  unfold hostMove at h
  split at h
  · rw [Host.Outcome.next.inj h]
  · rw [hostEdge_seen h]
  · split at h
    · rw [hostEdge_seen h]
    · rw [← Host.Outcome.next.inj h]
  · rw [← Host.Outcome.next.inj h]
    exact List.prefix_append _ _
  · split at h
    · rw [← Host.Outcome.next.inj h]
    · cases h

/-- A run of one more move goes on only where its first move does. -/
theorem exists_hostMove_of_succ {n : Nat} {r r' : HostRun} (h : hostMoves (n + 1) r = .next r') :
    ∃ q, hostMove r = .next q ∧ hostMoves n q = .next r' := by
  rcases hm : hostMove r with q | f | e
  · exact ⟨q, rfl, (hostMoves_succ n hm).symm.trans h⟩
  · simp [hostMoves, hm] at h
  · simp [hostMoves, hm] at h

/-- A run of moves that goes on passes through every shorter one. -/
theorem exists_hostMoves_of_add {k n : Nat} {r r' : HostRun} (h : hostMoves (k + n) r = .next r') :
    ∃ q, hostMoves k r = .next q ∧ hostMoves n q = .next r' := by
  induction k generalizing r with
  | zero => exact ⟨r, rfl, by rwa [Nat.zero_add] at h⟩
  | succ k ih =>
    rw [Nat.succ_add] at h
    obtain ⟨r₁, hm, h₁⟩ := exists_hostMove_of_succ h
    rw [hostMoves_succ k hm]
    exact ih h₁

theorem hostMoves_seen {n : Nat} {r r' : HostRun} (h : hostMoves n r = .next r') : r.seen <+: r'.seen := by
  induction n generalizing r with
  | zero => rw [Host.Outcome.next.inj h]
  | succ n ih =>
    obtain ⟨r₁, hm, h₁⟩ := exists_hostMove_of_succ h
    exact (hostMove_seen hm).trans (ih h₁)

/-- Before the read the procedure has returned nothing. -/
theorem digestAfter_of_unread {m : List Byte} {s : State} {k n : Nat} {r : HostRun}
    (h : hostMoves n (hostStart s [.hash m]) = .next r) (hr : r.seen = []) (hk : k ≤ n) :
    digestAfter k m s = .next none := by
  rw [← Nat.add_sub_cancel' hk] at h
  obtain ⟨q, hq, hq'⟩ := exists_hostMoves_of_add h
  have hseen : q.seen = [] := List.prefix_nil.mp (hr ▸ hostMoves_seen hq')
  simp only [digestAfter, hq, hseen]

/-- After the read, and with nothing more to do, the procedure has returned what it read. -/
theorem digestAfter_of_read {m : List Byte} {s v : State} {h : Vector Word 8} {e : Bool} {k n edges : Nat}
    (hn : hostMoves n (hostStart s [.hash m]) = .next ⟨v, [], [readout v], edges⟩) (hv : ShowsDigest h e v)
    (hk : n ≤ k) : digestAfter k m s = .next (some (hexDigest h)) := by
  have hmoves : hostMoves k (hostStart s [.hash m]) = .next ⟨v, [], [readout v], edges⟩ := by
    rw [← Nat.add_sub_cancel' hk, hostMoves_add _ hn, hostMoves_done rfl]
  simp [digestAfter, hmoves, returnHex_readout, hv.valid, hv.digestState]

/-! ### The statements -/

/-- Settles O49: an idle block takes the first command at once, and the move after the commands and WAIT is
the read. -/
theorem hashReadsTheMessageDigest : Obligations.HashReadsTheMessageDigest := by
  intro m s hm hf
  obtain ⟨v, hv, hmoves⟩ := hostMoves_hash_before_read (s := s) (k := 0) hm rfl hf
  refine ⟨_, ⟨v, [], [readout v], 0 + messageEdges m⟩,
    (hostMoves_add 1 hmoves).trans (hostMoves_succ 0 (hostMove_read rfl)), rfl, ?_, ?_, hv.digestState⟩
  · rw [hv.readout_eq]
  · rw [Nat.zero_add, messageEdges_eq]

/-- Settles O52: the first command waits until a block in progress has come to IDLE, the move after the commands and
WAIT is the read, and no move before it samples anything. -/
theorem digestProcedureReturnsTheHexDigest : Obligations.DigestProcedureReturnsTheHexDigest := by
  intro m s hm hs
  obtain ⟨w, hwait, hwf, -⟩ := hostMoves_waits (r := hostStart s (digestLines m)) (n := s.edgesToIdle)
    (waitsWhileBusy_digestLines m) hs rfl
  have hk : hostMoves s.edgesToIdle (hostStart s (digestLines m)) = .next ⟨w, digestLines m, [], s.edgesToIdle⟩ :=
    hwait.trans (by rw [hostStart, Nat.zero_add])
  obtain ⟨v, hv, hmoves⟩ := hostMoves_hash_before_read hm hk hwf
  refine ⟨s.edgesToIdle + (messageEdges m + 1) + 1 + 1, ?_, fun k => ?_⟩
  · have hle := edgesToIdle_le s
    have hedges := messageEdges_eq m
    omega
  · split
    · next hlt => exact digestAfter_of_unread hmoves rfl (Nat.le_of_lt_succ hlt)
    · next hge =>
      have hread := (hostMoves_add 1 hmoves).trans (hostMoves_succ 0 (hostMove_read rfl))
      exact digestAfter_of_read hread hv (Nat.le_of_not_lt hge)

/-- Settles O47: the digits of each word, one word after the other. -/
theorem hexDigestFormat : Obligations.HexDigestFormat := by
  intro h
  refine ⟨by simp [hexDigest, List.length_flatMap], fun c hc => ?_, fun i j => ?_, by decide⟩
  · obtain ⟨x, -, hx⟩ := List.mem_flatMap.mp hc
    exact mem_hexDigits_of_mem_hexWord hx
  · have hi : h.toList[i.val]? = some h[i] := by simp
    rw [hexDigest, getElem?_flatMap_of_length hexWord_length j.isLt, hi]
    exact hexWord_getElem? _ j.isLt

/-- Settles O51: the words of the port are those of `H`, and the end of the procedure looks at `dv`. -/
theorem portRenderingIsTheWordsRendering : Obligations.PortRenderingIsTheWordsRendering := by
  refine ⟨wordsOfDigest_digestOfWords, fun s => ⟨hexPort_digest s, fun hdv => ?_, fun hdv => ?_⟩⟩
  · simp [returnHex_readout, hdv]
  · simp [returnHex_readout, hdv]

end Sys2Proof.Machine
end

section
/-!
PROOFS, the statements on exceptions and timing (60_exceptions.md). First the rules: with known inputs no edge of a legal
state is refused (R270), and what the host drives beside the blocks' values decides the controller state and the counter
after every edge (R284). Then each statement from them.
-/
namespace Sys2Proof.Machine

/-! ### Edges with known inputs go on -/

/-- Decoding known ports never refuses (30_encoding.md R83). -/
theorem AllKnown.decodePorts_ne_error {p : PortInput} (h : AllKnown p) :
    ¬ ∃ e, decodePorts p.cmdOp p.blkData = .error e := by
  obtain ⟨-, -, hop, hblk⟩ := h
  rw [decodePorts_error_iff]
  rintro (ho | ⟨-, hb⟩)
  · exact hop ho
  · exact hblk hb

/-- An edge at which every port is known is not refused, in any state (30_encoding.md R83). -/
theorem AllKnown.clockEdge_not_refused {p : PortInput} (h : AllKnown p) (s : State) :
    ¬ ∃ r, clockEdge p s = .refused r := by
  have ⟨hrst, hvalid, _, _⟩ := h
  rw [clockEdge_refused_iff]
  rintro (hr | ⟨-, hf, hi⟩)
  · exact hrst hr
  · rcases (idleEdge_refused_iff p hf).mp hi with hc | ⟨-, hd⟩
    · exact hvalid hc
    · exact h.decodePorts_ne_error hd

/-- An edge at which the host offers nothing is not refused: it does not take the undriven ports. -/
theorem clockEdge_quiet_not_refused (s : State) : ¬ ∃ r, clockEdge .quiet s = .refused r := by
  rw [clockEdge_refused_iff]
  rintro (hr | ⟨-, hf, hi⟩)
  · simp [PortInput.quiet] at hr
  · simp [idleEdge_refused_iff _ hf, PortInput.quiet] at hi

/-- Where every listed input is known no step is refused, past the end of the list either. -/
theorem step_not_refused_of_allKnown {s : State} (hk : ∀ p ∈ s.inputs, AllKnown p) : ¬ ∃ r, step s = .refused r := by
  rcases hs : s.inputs with _ | ⟨p, rest⟩
  · rw [step_nil hs]; exact clockEdge_quiet_not_refused s
  · rw [step_cons hs]; exact (hk p (by simp [hs])).clockEdge_not_refused _

theorem step_goes_on_of_allKnown {s : State} (h : s.Legal) (hk : ∀ p ∈ s.inputs, AllKnown p) :
    ∃ u, step s = .next u := by
  rcases hs : step s with u | f | r
  · exact ⟨u, rfl⟩
  · exact absurd ⟨f, hs⟩ (step_not_faults_of_legal h)
  · exact absurd ⟨r, hs⟩ (step_not_refused_of_allKnown hk)

/-- With known inputs a run of any length from a legal state ends in a legal state (60_exceptions.md R270). -/
theorem run_goes_on_of_allKnown {s : State} (h : s.Legal) (hk : ∀ p ∈ s.inputs, AllKnown p) (n : Nat) :
    ∃ u, Host.Core.run core n s = .next u ∧ u.Legal := by
  induction n generalizing s with
  | zero => exact ⟨s, rfl, h⟩
  | succ n ih =>
    obtain ⟨u, hu⟩ := step_goes_on_of_allKnown h hk
    rw [run_next n hu]
    refine ih (step_legal h hu) fun p hp => hk p ?_
    rw [step_inputs hu] at hp
    exact List.mem_of_mem_tail hp

/-! ### What an accepted command does to the controller -/

/-- The controller state after an accepted command, by its opcode (45_controller.md section 2). -/
theorem acceptEffect_fsm (i : Instr) (s : State) :
    (acceptEffect i s).fsm = if encodeOp i = 0b01#2 ∨ encodeOp i = 0b10#2 then .round else s.fsm := by
  cases i <;> simp [acceptEffect, encodeOp]

/-- The counter after an accepted command, by its opcode (45_controller.md section 2). -/
theorem acceptEffect_t (i : Instr) (s : State) :
    (acceptEffect i s).t = if encodeOp i = 0b01#2 ∨ encodeOp i = 0b10#2 then 0 else s.t := by
  cases i <;> simp [acceptEffect, encodeOp]

/-- Ports that differ in the block's value at most decode to commands with the same opcode, since every opcode with every
known block is a command of that opcode (30_encoding.md R75). -/
theorem SameControl.exists_decodePorts {p q : PortInput} (h : SameControl p q) {i : Instr}
    (hi : decodePorts p.cmdOp p.blkData = .ok i) :
    ∃ j, decodePorts q.cmdOp q.blkData = .ok j ∧ encodeOp i = encodeOp j := by
  obtain ⟨-, -, hop, hblk⟩ := h
  rw [← hop]
  rcases ho : p.cmdOp with op | _
  · rw [ho] at hi
    rcases hp : p.blkData with b | _ <;> rcases hq : q.blkData with b' | _
    · obtain ⟨i', hi', hop'⟩ := opcodeMapIsComplete.2 op b
      obtain ⟨j, hj, hopj⟩ := opcodeMapIsComplete.2 op b'
      rw [hp, hi'] at hi
      obtain rfl := Except.ok.inj hi
      exact ⟨j, hj, hop'.trans hopj.symm⟩
    · simp [hp, hq, Pin.isKnown] at hblk
    · simp [hp, hq, Pin.isKnown] at hblk
    · exact ⟨i, hp ▸ hi, rfl⟩
  · simp [ho, decodePorts] at hi

/-! ### What a ROUND edge does to the controller -/

/-- The counter alone decides how the controller goes on at a ROUND edge (45_controller.md R231). -/
theorem nextRound_fsm_congr {s s' : State} (hf : s.fsm = s'.fsm) (ht : s.t = s'.t) :
    (nextRound s).fsm = (nextRound s').fsm := by
  rw [nextRound_fsm, nextRound_fsm, hf, ht]

theorem nextRound_t_congr {s s' : State} (ht : s.t = s'.t) : (nextRound s).t = (nextRound s').t := by
  rw [nextRound_t, nextRound_t, ht]

/-! ### Two runs with the same control -/

/-- What two states share that step together: the controller state, the counter and the control of all inputs to come
(60_exceptions.md R284). -/
structure SameTiming (s s' : State) : Prop where
  legal : s.Legal
  legal' : s'.Legal
  fsm : s.fsm = s'.fsm
  counter : s.t = s'.t
  inputs : List.Forall₂ SameControl s.inputs s'.inputs

theorem SameTiming.sameControl_nextInput {s s' : State} (h : SameTiming s s') :
    SameControl (nextInput s) (nextInput s') := by
  have hi := h.inputs
  unfold nextInput
  generalize s.inputs = ps, s'.inputs = qs at hi ⊢
  cases hi with
  | nil => exact ⟨rfl, rfl, rfl, rfl⟩
  | cons hpq _ => exact hpq

/-- If one of the two steps goes on the other does, to the same controller state and counter: by the kind of edge that
the first is. -/
theorem SameTiming.exists_step {s s' u : State} (h : SameTiming s s') (hu : step s = .next u) :
    ∃ u', step s' = .next u' ∧ u.fsm = u'.fsm ∧ u.t = u'.t := by
  have hc := h.sameControl_nextInput
  obtain ⟨hrst, hvalid, -, -⟩ := h.sameControl_nextInput
  obtain ⟨-, hl, hfsm, ht, -⟩ := h
  rcases clockEdge_cases hu with ⟨hr, rfl⟩ | ⟨hr, hv, hf, i, hi, rfl⟩ | ⟨hr, hv, hf, rfl⟩ | ⟨hr, hf, he⟩ | ⟨hr, hf, he⟩
  · exact ⟨_, reset_step (hrst ▸ hr), rfl, rfl⟩
  · have hf' : (dropInput s').fsm = .idle := hfsm.symm.trans hf
    obtain ⟨j, hj, hop⟩ := hc.exists_decodePorts hi
    refine ⟨acceptEffect j (dropInput s'),
      (clockEdge_accept (hrst ▸ hr) (hvalid ▸ hv) hf' hj).trans (exec_idle j hf'), ?_, ?_⟩
    · simp [acceptEffect_fsm, hop, hfsm]
    · simp [acceptEffect_t, hop, ht]
  · exact ⟨dropInput s', clockEdge_idle_noOffer (hrst ▸ hr) (hvalid ▸ hv) (hfsm.symm.trans hf), hfsm, ht⟩
  · obtain ⟨-, -, -, rfl⟩ := roundEdge_cases he
    refine ⟨_, round_step_of_legal hl (hfsm.symm.trans hf) (hrst ▸ hr), ?_, ?_⟩
    · exact nextRound_fsm_congr hfsm ht
    · exact nextRound_t_congr ht
  · obtain ⟨-, rfl⟩ := feedEdge_cases he
    exact ⟨_, feed_step_of_legal hl (hfsm.symm.trans hf) (hrst ▸ hr), rfl, ht⟩

theorem SameTiming.of_steps {s s' u u' : State} (h : SameTiming s s') (hu : step s = .next u) (hu' : step s' = .next u')
    (hfsm : u.fsm = u'.fsm) (ht : u.t = u'.t) : SameTiming u u' where
  legal := step_legal h.legal hu
  legal' := step_legal h.legal' hu'
  fsm := hfsm
  counter := ht
  inputs := by
    rw [step_inputs hu, step_inputs hu', ← List.drop_one, ← List.drop_one]
    exact List.forall₂_drop 1 h.inputs

/-- Two runs with the same control go on together. -/
theorem SameTiming.exists_run {s s' u : State} (h : SameTiming s s') (n : Nat) (hu : Host.Core.run core n s = .next u) :
    ∃ u', Host.Core.run core n s' = .next u' ∧ SameTiming u u' := by
  induction n generalizing s s' with
  | zero =>
    obtain rfl : s = u := Host.Outcome.next.inj hu
    exact ⟨s', rfl, h⟩
  | succ n ih =>
    rcases hs : step s with v | f | r
    · obtain ⟨v', hs', hfsm, ht⟩ := h.exists_step hs
      rw [run_next n hs] at hu
      rw [run_next n hs']
      exact ih (h.of_steps hs hs' hfsm ht) hu
    · rw [run_fault n hs] at hu; cases hu
    · rw [run_refused n hs] at hu; cases hu

/-! ### The statements -/

/-- Settles O23: every edge of a legal state keeps the invariant, under which no read of an edge faults; and known
inputs are not refused. -/
theorem legalStatesNeverFault : Obligations.LegalStatesNeverFault :=
  fun _ h => ⟨run_not_faults_of_legal h, run_goes_on_of_allKnown h⟩

/-- Settles O26: the two runs keep the same controller state, counter and control edge by edge. -/
theorem timingIsIndependentOfData : Obligations.TimingIsIndependentOfData := by
  intro s s' hl hl' hfsm ht hi n u hu
  have h : SameTiming s s' := ⟨hl, hl', hfsm, ht, hi⟩
  obtain ⟨u', hu', hsame⟩ := h.exists_run n hu
  exact ⟨u', hu', hsame.fsm, hsame.counter⟩

end Sys2Proof.Machine
end

section
/-!
PROOFS, the statements on reset (70_reset_and_hazards.md). First the rules: what a reset edge at the head of the inputs
does, and that from the state after a reset edge further reset edges use up the inputs and change nothing else. Then
each statement from them.
-/
namespace Sys2Proof.Machine

/-! ### Reset edges -/

/-- 70_reset_and_hazards.md R290: of the state before it a reset edge keeps the words of `V` and `Wwin` alone. -/
theorem resetEdge_eq_reset (s : State) :
    resetEdge s = { State.reset with V := s.V, Wwin := s.Wwin, inputs := s.inputs } := rfl

/-- The reset edge when its inputs are the first of those that the host drives. -/
theorem step_reset_cons {s : State} {p : PortInput} {rest : List PortInput} (hs : s.inputs = p :: rest)
    (hp : p.rst = .known true) : step s = .next (resetEdge { s with inputs := rest }) := by
  rw [step_cons hs, clockEdge, hp]

/-- 70_reset_and_hazards.md R291: after one reset edge every further one re-applies the rule and changes no register. -/
theorem run_resetEdge_of_held {ps : List PortInput} (hps : ∀ p ∈ ps, p.rst = .known true) (s : State)
    (rest : List PortInput) :
    Host.Core.run core ps.length (resetEdge { s with inputs := ps ++ rest }) =
      .next (resetEdge { s with inputs := rest }) := by
  induction ps with
  | nil => rfl
  | cons p ps ih =>
    obtain ⟨hp, hps⟩ := List.forall_mem_cons.mp hps
    have hstep : step (resetEdge { s with inputs := p :: (ps ++ rest) }) =
        .next (resetEdge { s with inputs := ps ++ rest }) := step_reset_cons rfl hp
    exact (run_next ps.length hstep).trans (ih hps)

/-! ### The statements -/

/-- Settles O3: the first edge gives the reset state, and the others keep it. -/
theorem heldResetStaysInTheResetState : Obligations.HeldResetStaysInTheResetState := by
  intro s ps rest hs hne hps
  obtain ⟨p, ps, rfl⟩ := List.exists_cons_of_ne_nil hne
  obtain ⟨hp, hps⟩ := List.forall_mem_cons.mp hps
  calc Host.Core.run core (ps.length + 1) s
      = Host.Core.run core ps.length (resetEdge { s with inputs := ps ++ rest }) :=
        run_next ps.length (step_reset_cons hs hp)
    _ = .next (resetEdge { s with inputs := rest }) := run_resetEdge_of_held hps s rest
    _ = .next { State.reset with V := s.V, Wwin := s.Wwin, inputs := rest } := by rw [resetEdge_eq_reset]

/-- Settles O1: the registers by definition, the tags entry by entry, and the outputs from the registers. -/
theorem resetStateIsAsSpecified : Obligations.ResetStateIsAsSpecified :=
  ⟨rfl, rfl, rfl, rfl, rfl, fun i => Vector.getElem_replicate i.isLt, fun j => Vector.getElem_replicate j.isLt,
    rfl, rfl, rfl, rfl⟩

/-- Settles O2: the rule of the reset edge, whatever the controller state and the command ports. -/
theorem resetEdgeGivesTheResetState : Obligations.ResetEdgeGivesTheResetState := by
  intro s p rest hs hp
  rw [step_reset_cons hs hp, resetEdge_eq_reset]

end Sys2Proof.Machine
end
